-- ==== Sys2Proof/Word.lean ====
section
/-! DEFINITION. The widths of the hardware's values (00_scope.md R5, R8). All quantities are unsigned (R6). -/

namespace Sys2Proof

/-- A register value, a memory byte, a timer value, the immediate `kk`. -/
abbrev Byte := BitVec 8

/-- An opcode, `I`, `PC`, a call-stack entry. -/
abbrev Word := BitVec 16

/-- The 12-bit address field `nnn`. -/
abbrev Addr := BitVec 12

/-- A 4-bit opcode field: the row count `n`, or four bits the dispatcher ignores. -/
abbrev Nibble := BitVec 4

/-- A register number. Every value of a 4-bit register field names a register (10_state.md R21). -/
abbrev Reg := Fin 16

/-- VF, register 15 (10_state.md R22). -/
abbrev Reg.vf : Reg := 15

end Sys2Proof
end

