-- ==== Sys2Proof/Syntax.lean ====
section
/-! DEFINITION. The instructions: one constructor per row of spec/opcode_table.json (30_encoding.md R78), 34 handlers
and the no-operation fallback. A constructor holds every bit of the opcode that its row does not fix, the bits the
dispatcher ignores among them (`ignored`; R72, R81), so that no bit is lost in decoding (log 20). -/

namespace Sys2Proof

inductive Instr where
  /-- `00E0` CLS, dispatched as `0··0` (R75). -/
  | cls (ignored : BitVec 8)
  /-- `00EE` RET, dispatched as `0··E` (R75). -/
  | ret (ignored : BitVec 8)
  /-- `1nnn` JP addr. -/
  | jp (nnn : Addr)
  /-- `2nnn` CALL addr. -/
  | call (nnn : Addr)
  /-- `3xkk` SE Vx, byte. -/
  | seImm (x : Reg) (kk : Byte)
  /-- `4xkk` SNE Vx, byte. -/
  | sneImm (x : Reg) (kk : Byte)
  /-- `5xy0` SE Vx, Vy, dispatched as `5xy·` (R74). -/
  | seReg (x y : Reg) (ignored : Nibble)
  /-- `6xkk` LD Vx, byte. -/
  | ldImm (x : Reg) (kk : Byte)
  /-- `7xkk` ADD Vx, byte. -/
  | addImm (x : Reg) (kk : Byte)
  /-- `8xy0` LD Vx, Vy. -/
  | ldReg (x y : Reg)
  /-- `8xy1` OR Vx, Vy. -/
  | or (x y : Reg)
  /-- `8xy2` AND Vx, Vy. -/
  | and (x y : Reg)
  /-- `8xy3` XOR Vx, Vy. -/
  | xor (x y : Reg)
  /-- `8xy4` ADD Vx, Vy. -/
  | addReg (x y : Reg)
  /-- `8xy5` SUB Vx, Vy. -/
  | sub (x y : Reg)
  /-- `8xy6` SHR Vx; `y` is carried, Vy is not used. -/
  | shr (x y : Reg)
  /-- `8xy7` SUBN Vx, Vy. -/
  | subn (x y : Reg)
  /-- `8xyE` SHL Vx; `y` is carried, Vy is not used. -/
  | shl (x y : Reg)
  /-- `9xy0` SNE Vx, Vy, dispatched as `9xy·` (R74). -/
  | sneReg (x y : Reg) (ignored : Nibble)
  /-- `Annn` LD I, addr. -/
  | ldI (nnn : Addr)
  /-- `Bnnn` JP V0, addr. -/
  | jpV0 (nnn : Addr)
  /-- `Cxkk` RND Vx, byte. -/
  | rnd (x : Reg) (kk : Byte)
  /-- `Dxyn` DRW Vx, Vy, nibble. -/
  | drw (x y : Reg) (n : Nibble)
  /-- `Ex9E` SKP Vx, dispatched as `Ex·E` (R77). -/
  | skp (x : Reg) (ignored : Nibble)
  /-- `ExA1` SKNP Vx, dispatched as `Ex·1` (R77). -/
  | sknp (x : Reg) (ignored : Nibble)
  /-- `Fx07` LD Vx, DT. -/
  | ldVxDt (x : Reg)
  /-- `Fx0A` LD Vx, K. -/
  | ldVxK (x : Reg)
  /-- `Fx15` LD DT, Vx. -/
  | ldDtVx (x : Reg)
  /-- `Fx18` LD ST, Vx. -/
  | ldStVx (x : Reg)
  /-- `Fx1E` ADD I, Vx. -/
  | addI (x : Reg)
  /-- `Fx29` LD F, Vx. -/
  | ldF (x : Reg)
  /-- `Fx33` LD B, Vx. -/
  | ldB (x : Reg)
  /-- `Fx55` LD [I], Vx. -/
  | stRegs (x : Reg)
  /-- `Fx65` LD Vx, [I]. -/
  | ldRegs (x : Reg)
  /-- NOP, "Any unmatched" (R79), with the opcode that matched no row. -/
  | nop (op : Word)
  deriving DecidableEq, Repr

end Sys2Proof
end

