-- ==== Sys2Proof/WellFormed.lean ====
section
/-! DEFINITION. Which instructions are the meaning of some opcode. Every operand field is already as wide as its
opcode field, so the one check is that a NOP carries an opcode of the no-operation set (30_encoding.md R79). -/

namespace Sys2Proof

/-- The low bytes for which family 0xF has a handler (R78). -/
def familyFKeys : List Byte :=
  [0x07#8, 0x0A#8, 0x15#8, 0x18#8, 0x1E#8, 0x29#8, 0x33#8, 0x55#8, 0x65#8]

/-- The no-operation set, family by family as R79 lists it. -/
def isNopWord (op : Word) : Bool :=
  let family := op.extractLsb' 12 4
  let low := op.extractLsb' 0 4
  (family == 0x0#4 && !(low == 0x0#4 || low == 0xE#4)) ||
  (family == 0x8#4 && (low.ule 0xD#4 && (0x8#4).ule low || low == 0xF#4)) ||
  (family == 0xE#4 && !(low == 0x1#4 || low == 0xE#4)) ||
  (family == 0xF#4 && !familyFKeys.contains (op.extractLsb' 0 8))

/-- A well-formed instruction: some opcode decodes to it. -/
def Instr.wf : Instr → Bool
  | .nop op => isNopWord op
  | .cls _ | .ret _ | .jp _ | .call _ | .seImm _ _ | .sneImm _ _ | .seReg _ _ _ | .ldImm _ _ | .addImm _ _
  | .ldReg _ _ | .or _ _ | .and _ _ | .xor _ _ | .addReg _ _ | .sub _ _ | .shr _ _ | .subn _ _ | .shl _ _
  | .sneReg _ _ _ | .ldI _ | .jpV0 _ | .rnd _ _ | .drw _ _ _ | .skp _ _ | .sknp _ _ | .ldVxDt _ | .ldVxK _
  | .ldDtVx _ | .ldStVx _ | .addI _ | .ldF _ | .ldB _ | .stRegs _ | .ldRegs _ => true

end Sys2Proof
end

