-- ==== Sys2Proof/Decode.lean ====
section
/-! DEFINITION. The decoder: the two-level dispatch of 30_encoding.md R74 to R78 on a 16-bit opcode, total; the
decoder of a byte sequence; then the encoder, written from the same tables; and the predicate `Canonical` (R83). -/

namespace Sys2Proof

/-! ## The fields of an opcode (00_scope.md R8, 30_encoding.md R71) -/

/-- `t = op[15:12]`, the family. -/
def fieldT (op : Word) : Nibble := op.extractLsb' 12 4

/-- A register field's value as a register number (30_encoding.md R73). -/
def regOfNibble (b : Nibble) : Reg := b.toFin

/-- `x = op[11:8]`. -/
def fieldX (op : Word) : Reg := regOfNibble (op.extractLsb' 8 4)

/-- `y = op[7:4]`. -/
def fieldY (op : Word) : Reg := regOfNibble (op.extractLsb' 4 4)

/-- `op[7:4]` where it is ignored (family 0xE, R77). -/
def fieldThird (op : Word) : Nibble := op.extractLsb' 4 4

/-- `n = op[3:0]`. -/
def fieldN (op : Word) : Nibble := op.extractLsb' 0 4

/-- `kk = op[7:0]`. -/
def fieldKK (op : Word) : Byte := op.extractLsb' 0 8

/-- `nnn = op[11:0]`. -/
def fieldNNN (op : Word) : Addr := op.extractLsb' 0 12

/-- `op[11:4]`, ignored in family 0 (R75). -/
def fieldMiddle (op : Word) : BitVec 8 := op.extractLsb' 4 8

/-! ## The dispatcher -/

/-- Secondary table of family 0x0, key `op[3:0]` (R75). -/
def decodeFamily0 (op : Word) : Instr :=
  match fieldN op with
  | 0x0#4 => .cls (fieldMiddle op)
  | 0xE#4 => .ret (fieldMiddle op)
  | _ => .nop op

/-- Secondary table of family 0x8, key `op[3:0]` (R76). -/
def decodeFamily8 (op : Word) : Instr :=
  match fieldN op with
  | 0x0#4 => .ldReg (fieldX op) (fieldY op)
  | 0x1#4 => .or (fieldX op) (fieldY op)
  | 0x2#4 => .and (fieldX op) (fieldY op)
  | 0x3#4 => .xor (fieldX op) (fieldY op)
  | 0x4#4 => .addReg (fieldX op) (fieldY op)
  | 0x5#4 => .sub (fieldX op) (fieldY op)
  | 0x6#4 => .shr (fieldX op) (fieldY op)
  | 0x7#4 => .subn (fieldX op) (fieldY op)
  | 0xE#4 => .shl (fieldX op) (fieldY op)
  | _ => .nop op

/-- Secondary table of family 0xE, key `op[3:0]` (R77). -/
def decodeFamilyE (op : Word) : Instr :=
  match fieldN op with
  | 0xE#4 => .skp (fieldX op) (fieldThird op)
  | 0x1#4 => .sknp (fieldX op) (fieldThird op)
  | _ => .nop op

/-- Secondary table of family 0xF, key `op[7:0]` (R78). -/
def decodeFamilyF (op : Word) : Instr :=
  match fieldKK op with
  | 0x07#8 => .ldVxDt (fieldX op)
  | 0x0A#8 => .ldVxK (fieldX op)
  | 0x15#8 => .ldDtVx (fieldX op)
  | 0x18#8 => .ldStVx (fieldX op)
  | 0x1E#8 => .addI (fieldX op)
  | 0x29#8 => .ldF (fieldX op)
  | 0x33#8 => .ldB (fieldX op)
  | 0x55#8 => .stRegs (fieldX op)
  | 0x65#8 => .ldRegs (fieldX op)
  | _ => .nop op

/-- First level: the family selects a handler or a secondary table (R74). The last arm is family 0xF, the one value
of four bits the others leave. -/
def decodeWord (op : Word) : Instr :=
  match fieldT op with
  | 0x0#4 => decodeFamily0 op
  | 0x1#4 => .jp (fieldNNN op)
  | 0x2#4 => .call (fieldNNN op)
  | 0x3#4 => .seImm (fieldX op) (fieldKK op)
  | 0x4#4 => .sneImm (fieldX op) (fieldKK op)
  | 0x5#4 => .seReg (fieldX op) (fieldY op) (fieldN op)
  | 0x6#4 => .ldImm (fieldX op) (fieldKK op)
  | 0x7#4 => .addImm (fieldX op) (fieldKK op)
  | 0x8#4 => decodeFamily8 op
  | 0x9#4 => .sneReg (fieldX op) (fieldY op) (fieldN op)
  | 0xA#4 => .ldI (fieldNNN op)
  | 0xB#4 => .jpV0 (fieldNNN op)
  | 0xC#4 => .rnd (fieldX op) (fieldKK op)
  | 0xD#4 => .drw (fieldX op) (fieldY op) (fieldN op)
  | 0xE#4 => decodeFamilyE op
  | _ => decodeFamilyF op

/-! ## Bytes -/

/-- The opcode of two bytes in memory, big-endian (20_memory.md R54). -/
def wordOfBytes (hi lo : Byte) : Word := hi ++ lo

/-- The byte stored at the lower address. -/
def highByte (op : Word) : Byte := op.extractLsb' 8 8

/-- The byte stored at the higher address. -/
def lowByte (op : Word) : Byte := op.extractLsb' 0 8

/-- Why a byte sequence is no instruction. No opcode is ever rejected (30_encoding.md R85). -/
inductive DecodeError where
  /-- Fewer than the two bytes of an instruction (30_encoding.md R70). -/
  | truncated
  deriving DecidableEq, Repr

/-- Reads one instruction from the front of a byte sequence and gives the rest back. -/
def decode : List Byte → Except DecodeError (Instr × List Byte)
  | hi :: lo :: rest => .ok (decodeWord (wordOfBytes hi lo), rest)
  | [_] => .error .truncated
  | [] => .error .truncated

/-- The instruction the decoder reads from an instruction whose bits, as spec/opcode_table.json numbers them, are
`w`: bit 0 is the opcode's least significant bit. Every instruction is 16 bits long, so a length above 16 is none. -/
def decodeTableWord (nbits w : Nat) : Option Instr :=
  if nbits ≤ 16 then
    let op : Word := BitVec.ofNat 16 (w % 2 ^ nbits)
    match decode [highByte op, lowByte op] with
    | .ok (i, []) => some i
    | .ok (_, _ :: _) => none
    | .error _ => none
  else none

/-! ## The encoder -/

/-- A register number as a 4-bit field. -/
def nibbleOfReg (r : Reg) : Nibble := BitVec.ofFin r

/-- Format ADDR: `t n n n` (30_encoding.md R72). -/
def encodeAddr (t : Nibble) (nnn : Addr) : Word := t ++ nnn

/-- Format XKK: `t x k k`. -/
def encodeXKK (t : Nibble) (x : Reg) (kk : Byte) : Word := (t ++ nibbleOfReg x : BitVec 8) ++ kk

/-- Formats XY and XYN: `t x y s` with the low nibble a sub-key, a row count or ignored. -/
def encodeXY (t : Nibble) (x y : Reg) (s : Nibble) : Word :=
  (t ++ nibbleOfReg x : BitVec 8) ++ (nibbleOfReg y ++ s : BitVec 8)

/-- Format NONE: `t _ _ s`, the low nibble is the sub-key and the bits between are ignored. -/
def encodeNone (t : Nibble) (middle : BitVec 8) (s : Nibble) : Word := (t ++ middle : BitVec 12) ++ s

/-- Family 0xE: `E x · s`. -/
def encodeKey (x : Reg) (ignored s : Nibble) : Word :=
  ((0xE#4 : Nibble) ++ nibbleOfReg x : BitVec 8) ++ (ignored ++ s : BitVec 8)

/-- The opcode of a well-formed instruction (30_encoding.md R78). -/
def encode : Instr → Word
  | .cls m => encodeNone 0x0#4 m 0x0#4
  | .ret m => encodeNone 0x0#4 m 0xE#4
  | .jp a => encodeAddr 0x1#4 a
  | .call a => encodeAddr 0x2#4 a
  | .seImm x kk => encodeXKK 0x3#4 x kk
  | .sneImm x kk => encodeXKK 0x4#4 x kk
  | .seReg x y s => encodeXY 0x5#4 x y s
  | .ldImm x kk => encodeXKK 0x6#4 x kk
  | .addImm x kk => encodeXKK 0x7#4 x kk
  | .ldReg x y => encodeXY 0x8#4 x y 0x0#4
  | .or x y => encodeXY 0x8#4 x y 0x1#4
  | .and x y => encodeXY 0x8#4 x y 0x2#4
  | .xor x y => encodeXY 0x8#4 x y 0x3#4
  | .addReg x y => encodeXY 0x8#4 x y 0x4#4
  | .sub x y => encodeXY 0x8#4 x y 0x5#4
  | .shr x y => encodeXY 0x8#4 x y 0x6#4
  | .subn x y => encodeXY 0x8#4 x y 0x7#4
  | .shl x y => encodeXY 0x8#4 x y 0xE#4
  | .sneReg x y s => encodeXY 0x9#4 x y s
  | .ldI a => encodeAddr 0xA#4 a
  | .jpV0 a => encodeAddr 0xB#4 a
  | .rnd x kk => encodeXKK 0xC#4 x kk
  | .drw x y n => encodeXY 0xD#4 x y n
  | .skp x s => encodeKey x s 0xE#4
  | .sknp x s => encodeKey x s 0x1#4
  | .ldVxDt x => encodeXKK 0xF#4 x 0x07#8
  | .ldVxK x => encodeXKK 0xF#4 x 0x0A#8
  | .ldDtVx x => encodeXKK 0xF#4 x 0x15#8
  | .ldStVx x => encodeXKK 0xF#4 x 0x18#8
  | .addI x => encodeXKK 0xF#4 x 0x1E#8
  | .ldF x => encodeXKK 0xF#4 x 0x29#8
  | .ldB x => encodeXKK 0xF#4 x 0x33#8
  | .stRegs x => encodeXKK 0xF#4 x 0x55#8
  | .ldRegs x => encodeXKK 0xF#4 x 0x65#8
  | .nop op => op

/-- The two bytes of a well-formed instruction as memory holds them. -/
def encodeBytes (i : Instr) : List Byte := [highByte (encode i), lowByte (encode i)]

/-! ## Canonical encodings -/

/-- `Canonical(op)` (R83): a row's pattern with every fixed digit equal, no alias of R81. The hardware does not use
it; a claim about a program may, to hold under both readings of conflict C2. -/
def canonical (op : Word) : Bool :=
  match decodeWord op with
  | .cls m => m == 0x0E#8
  | .ret m => m == 0x0E#8
  | .seReg _ _ s => s == 0x0#4
  | .sneReg _ _ s => s == 0x0#4
  | .skp _ s => s == 0x9#4
  | .sknp _ s => s == 0xA#4
  | .nop _ => false
  | .jp _ | .call _ | .seImm _ _ | .sneImm _ _ | .ldImm _ _ | .addImm _ _ | .ldReg _ _ | .or _ _ | .and _ _
  | .xor _ _ | .addReg _ _ | .sub _ _ | .shr _ _ | .subn _ _ | .shl _ _ | .ldI _ | .jpV0 _ | .rnd _ _
  | .drw _ _ _ | .ldVxDt _ | .ldVxK _ | .ldDtVx _ | .ldStVx _ | .addI _ | .ldF _ | .ldB _ | .stRegs _
  | .ldRegs _ => true

end Sys2Proof
end

