-- ==== Sys2Proof/Machine/Flags.lean ====
section
/-! DEFINITION. The arithmetic of the flag-writing instructions and the one flag's values (42_alu.md R140). Each
condition is a Bool; `flagByte` is what VF receives for it (10_state.md R22). The collision flag of `Dxyn` is computed
with the drawing (Machine/Ops.lean). -/

namespace Sys2Proof.Machine

/-- The value of VF for a condition. -/
def flagByte (c : Bool) : Byte := if c then 1#8 else 0#8

/-- The true sum of two bytes, "as wider integer": 9 bits (R140, R148). -/
def wideSum (a b : Byte) : BitVec 9 := a.setWidth 9 + b.setWidth 9

/-- `8xy4`: the carry, `sum > 255` (R148). -/
def carryFlag (sum : BitVec 9) : Bool := decide (255 < sum.toNat)

/-- `sum[7:0]` (R148). -/
def sumByte (sum : BitVec 9) : Byte := sum.setWidth 8

/-- `8xy5`, `8xy7`: the minuend is strictly greater; equal operands give 0 (R140, R149, R151). -/
def greaterFlag (minuend subtrahend : Byte) : Bool := decide (subtrahend.toNat < minuend.toNat)

/-- `8xy6`: the bit shifted out at the bottom (R150). -/
def lowBitFlag (a : Byte) : Bool := a.getLsbD 0

/-- `8xyE`: the bit shifted out at the top (R152). -/
def highBitFlag (a : Byte) : Bool := a.getLsbD 7

end Sys2Proof.Machine
end

