-- ==== Sys2Proof/Config.lean ====
section
/-! DEFINITION. The parameters of 00_scope.md R5 that are plain sizes and addresses, and the free values. The open
parameter `FONTSET` is an argument (Machine/Memory.lean, Machine/Ports.lean); the address and column policies stand
beside the operations that use them (Machine/Ops.lean, Machine/Operands.lean). -/

namespace Sys2Proof.Config

/-- `MEM_SIZE`: addresses 0x000 to 0xFFF (10_state.md R25). -/
def memSize : Nat := 4096

/-- `ROM_BASE`: where `load` writes (10_state.md R44). -/
def romBase : Nat := 0x200

/-- `PC_RESET` (10_state.md R24). -/
def pcReset : Word := 0x0200#16

/-- `ROM_MAX`: the largest ROM `load` accepts, 4096 - 512 bytes (10_state.md R44). -/
def romMax : Nat := 3584

/-- `FONT_BASE` (10_state.md R25). -/
def fontBase : Nat := 0x050

/-- FREE VALUE (log 1): the keypad state `KEYS` that the n-th step without a scripted input samples. No rule
constrains it: it "may change arbitrarily" between steps (10_state.md R40). -/
opaque freeKeys : Nat → BitVec 16

/-- FREE VALUE (log 1): the random byte `RND` supplied to the n-th step without a scripted input. "No rule
constrains its value" (10_state.md R41). -/
opaque freeByte : Nat → Byte

end Sys2Proof.Config
end

