-- ==== Sys2Proof/Machine/State.lean ====
section
/-! DEFINITION. The state of the machine (10_state.md R20), as plain data, and its value after reset (R46). -/

namespace Sys2Proof.Machine

/-- The two synchronous faults (60_exceptions.md R220). -/
inductive FaultCause where
  | stackOverflow
  | stackUnderflow
  deriving DecidableEq, Repr

/-- `OUTCOME` of a step (10_state.md R39): Ok, or Fault(cause) with the information of the raise, `PC_f` and
`OPCODE` (60_exceptions.md R220, R223). -/
inductive StepReport where
  | ok
  | fault (cause : FaultCause) (pcf opcode : Word)
  deriving DecidableEq, Repr

/-- The inputs of one `step` request (10_state.md R39). -/
structure StepInput where
  /-- `KEYS`: bit `k` is 1 when key `k` is pressed (R40). -/
  keys : BitVec 16
  /-- `RND`: the random byte (R41). -/
  rnd : Byte
  deriving DecidableEq, Repr

/-- Memory: (address, byte) pairs in one canonical form, only the bytes that differ from `Memory.unlisted`
(Machine/Memory.lean). -/
abbrev Memory := List Host.Cell

/-- 32 rows of 64 cells, `disp[py][px]`, lit is true (10_state.md R33). -/
abbrev Display := Vector (Vector Bool 64) 32

structure State where
  /-- `MEM`, 4096 bytes (R25). -/
  mem : Memory
  /-- `V[0]` to `V[15]` (R21). -/
  v : Vector Byte 16
  /-- `I`, the index register, never masked (R23). -/
  i : Word
  /-- `PC`, never masked and never aligned (R24). -/
  pc : Word
  /-- `STACK[0]` to `STACK[15]` (R26). -/
  stack : Vector Word 16
  /-- `SP`, the number of return addresses on the stack, 0 to 16 (R27). -/
  sp : Fin 17
  /-- `DT`, the delay timer (R28). -/
  dt : Byte
  /-- `ST`, the sound timer (R29). -/
  st : Byte
  /-- `DISP` (R33). -/
  disp : Display
  /-- `OPCODE`, overwritten at every fetch (R30). -/
  opcode : Word
  /-- `FLT`, the first fault since reset (R31). -/
  flt : Option FaultCause
  /-- Input `KEYS` as sampled by the step being executed (R40). -/
  keys : BitVec 16
  /-- Input `RND` as sampled by the step being executed (R41). -/
  rnd : Byte
  /-- The model's own field (log 1): what the outside presents on `KEYS` and `RND` at the coming steps, first
  first. At the end of the list the inputs are free values. -/
  inputs : List StepInput
  /-- The model's own field (log 1): how many steps have sampled their inputs; the index of the next free values. -/
  draws : Nat
  /-- Output `TONE` of the last step (R43). -/
  tone : Option Byte
  /-- Output `OUTCOME` of the last step (R39). -/
  outcome : StepReport
  deriving DecidableEq, Repr

/-- Why the machine stops with a fault: never. It has no constructor, since the two faults of the hardware leave a
next state (60_exceptions.md R224, R225) and no other condition faults (R228); log 4. -/
inductive Fault : Type
  deriving DecidableEq, Repr

/-- Why the model has no meaning for an instruction. -/
inductive Refusal where
  /-- Raised only by a refused arm of `exec`, for an instruction that has no meaning yet. Safe: the model stops where
  the hardware goes on. No arm raises it now. -/
  | notModelled (mnemonic : String)
  deriving DecidableEq, Repr

/-- What executing an instruction answers. -/
abbrev Result := Host.Outcome State Fault Refusal

/-- The machine right after `reset` (R46), with the default of the parameter `FONTSET`; `State.resetWith` is the same
for every value of it (Machine/Ports.lean). Memory lists nothing: an unlisted address reads as its reset value. The
last six fields are the ports and the model's own fields (log 2). -/
def State.reset : State where
  mem := []
  v := Vector.replicate 16 0#8
  i := 0#16
  pc := Config.pcReset
  stack := Vector.replicate 16 0#16
  sp := 0
  dt := 0#8
  st := 0#8
  disp := Vector.replicate 32 (Vector.replicate 64 false)
  opcode := 0#16
  flt := none
  keys := 0#16
  rnd := 0#8
  inputs := []
  draws := 0
  tone := none
  outcome := .ok

end Sys2Proof.Machine
end

