-- ==== Sys2Proof/Machine/Memory.lean ====
section
/-! DEFINITION. The memory array (10_state.md R25, 20_memory.md R50): what it holds after reset, the canonical form of
the list that represents it, and reading and writing one byte of it. An index here is already reduced modulo 4096. -/

namespace Sys2Proof.Machine

/-- A value of the open parameter `FONTSET` (00_scope.md R5): `FONT_SIZE` = 80 bytes, glyph 0 to glyph F, five
rows each. The machine takes it as an argument where memory gets its reset contents (`State.resetWith` and
`resetRequest`, Machine/Ports.lean). -/
abbrev Fontset := Vector Byte 80

/-- The bytes of the default table of `FONTSET` (10_state.md R25). PRESUMED: the spec takes them from general knowledge
(log 8). -/
def defaultGlyphs : List Byte :=
  [0xF0#8, 0x90#8, 0x90#8, 0x90#8, 0xF0#8,  0x20#8, 0x60#8, 0x20#8, 0x20#8, 0x70#8,
   0xF0#8, 0x10#8, 0xF0#8, 0x80#8, 0xF0#8,  0xF0#8, 0x10#8, 0xF0#8, 0x10#8, 0xF0#8] ++
  [0x90#8, 0x90#8, 0xF0#8, 0x10#8, 0x10#8,  0xF0#8, 0x80#8, 0xF0#8, 0x10#8, 0xF0#8,
   0xF0#8, 0x80#8, 0xF0#8, 0x90#8, 0xF0#8,  0xF0#8, 0x10#8, 0x20#8, 0x40#8, 0x40#8] ++
  [0xF0#8, 0x90#8, 0xF0#8, 0x90#8, 0xF0#8,  0xF0#8, 0x90#8, 0xF0#8, 0x10#8, 0xF0#8,
   0xF0#8, 0x90#8, 0xF0#8, 0x90#8, 0x90#8,  0xE0#8, 0x90#8, 0xE0#8, 0x90#8, 0xE0#8] ++
  [0xF0#8, 0x80#8, 0x80#8, 0x80#8, 0xF0#8,  0xE0#8, 0x90#8, 0x90#8, 0x90#8, 0xE0#8,
   0xF0#8, 0x80#8, 0xF0#8, 0x80#8, 0xF0#8,  0xF0#8, 0x80#8, 0xF0#8, 0x80#8, 0x80#8]

/-- The default of the parameter `FONTSET` (93_implementation_defined.md U18). -/
def defaultFontset : Fontset := ⟨defaultGlyphs.toArray, rfl⟩

/-- What an unlisted address reads as: the contents of memory after a reset with the default fontset, the fontset at
0x050 to 0x09F and zero elsewhere (10_state.md R46). A memory with another fontset lists the bytes that differ
(log 22), so this fixes no byte of `FONTSET`. -/
def Memory.unlisted (a : Nat) : Byte :=
  if Config.fontBase ≤ a then defaultGlyphs.getD (a - Config.fontBase) 0#8 else 0#8

/-- The byte at index `a`. -/
def Memory.get : Memory → Nat → Byte
  | [], a => Memory.unlisted a
  | (k, b) :: m, a => if k = a then b else Memory.get m a

/-- The memory without an entry for `a`. -/
def Memory.erase (m : Memory) (a : Nat) : Memory := m.filter fun c => c.1 ≠ a

/-- Puts a new entry at its place in rising order. -/
def Memory.insert (a : Nat) (b : Byte) : Memory → Memory
  | [] => [(a, b)]
  | (k, c) :: m => if a < k then (a, b) :: (k, c) :: m else (k, c) :: Memory.insert a b m

/-- Stores `b` at index `a`, listing it only if it differs from what an unlisted address reads as. -/
def Memory.set (m : Memory) (a : Nat) (b : Byte) : Memory :=
  if b = Memory.unlisted a then m.erase a else Memory.insert a b (m.erase a)

/-- Addresses strictly rising. -/
def Memory.rising : Memory → Bool
  | [] => true
  | [_] => true
  | (k, _) :: (l, c) :: m => decide (k < l) && Memory.rising ((l, c) :: m)

/-- The canonical form: addresses strictly rising, each below 4096, and no entry equal to what an unlisted address
reads as. -/
def Memory.wf (m : Memory) : Bool :=
  Memory.rising m && m.all fun c => decide (c.1 < Config.memSize) && decide (c.2 ≠ Memory.unlisted c.1)

end Sys2Proof.Machine
end

