-- ==== Sys2Proof/Machine/Ops.lean ====
section
/-! DEFINITION. The shared operations on the state: the accessors of every register, the two memory primitives, the
call stack, taking a fault, the display, and the phases of a step. There is no return from a fault: the hardware has no
handler to return from (60_exceptions.md R225). -/

namespace Sys2Proof.Machine

/-! ## Plain updates, one per part of the state -/

def State.setMem (s : State) (m : Memory) : State := { s with mem := m }
def State.setRegs (s : State) (v : Vector Byte 16) : State := { s with v := v }
def State.setI (s : State) (a : Word) : State := { s with i := a }
def State.setPC (s : State) (a : Word) : State := { s with pc := a }
def State.setStack (s : State) (k : Vector Word 16) (p : Fin 17) : State := { s with stack := k, sp := p }
def State.setDT (s : State) (b : Byte) : State := { s with dt := b }
def State.setST (s : State) (b : Byte) : State := { s with st := b }
def State.setDisp (s : State) (d : Display) : State := { s with disp := d }
def State.setOpcode (s : State) (w : Word) : State := { s with opcode := w }
def State.setFault (s : State) (f : Option FaultCause) (r : StepReport) : State := { s with flt := f, outcome := r }
def State.setSample (s : State) (keys : BitVec 16) (rnd : Byte) : State := { s with keys := keys, rnd := rnd }
def State.setInputs (s : State) (inputs : List StepInput) (draws : Nat) : State :=
  { s with inputs := inputs, draws := draws }
def State.setTone (s : State) (t : Option Byte) : State := { s with tone := t }
def State.setOutcome (s : State) (r : StepReport) : State := { s with outcome := r }

/-! ## Registers -/

/-- `V[r]` (10_state.md R21). -/
def State.readV (s : State) (r : Reg) : Byte := s.v[r.val]

/-- `V[r] <- b`. -/
def State.writeV (s : State) (r : Reg) (b : Byte) : State := s.setRegs (s.v.set r.val b r.isLt)

/-- `V[0xF] <- (1 if c else 0)`: VF is register 15 itself, not a separate bit (R22). -/
def State.writeFlag (s : State) (c : Bool) : State := s.writeV Reg.vf (flagByte c)

/-! ## Memory (20_memory.md R52, R53) -/

/-- Every byte address is reduced modulo 4096 at the access, byte by byte (R52, R53; log 7). -/
def memIndex (a : Nat) : Nat := a % Config.memSize

/-- `MemRead(a, 1)`. -/
def State.memRead1 (s : State) (a : Nat) : Byte := s.mem.get (memIndex a)

/-- `MemRead(a, 2)`: the byte at the lower address is the more significant. -/
def State.memRead2 (s : State) (a : Nat) : Word := s.memRead1 a ++ s.memRead1 (a + 1)

/-- `MemWrite(a, 1, b)`. -/
def State.memWrite (s : State) (a : Nat) (b : Byte) : State := s.setMem (s.mem.set (memIndex a) b)

/-- `MemWrite(a + k, 1, b_k)` for consecutive bytes, in ascending order. -/
def State.memWriteAll (s : State) (a : Nat) : List Byte → State
  | [] => s
  | b :: bs => (s.memWrite a b).memWriteAll (a + 1) bs

/-! ## The program counter (10_state.md R24); all arithmetic is modulo 65536 -/

/-- The fetch advance and a taken skip add 2 (40_step_and_dispatch.md R102, 41_control_flow.md R129). -/
def State.advance (s : State) : State := s.setPC (s.pc + 2#16)

/-- A skip whose condition is `c` (41_control_flow.md R129). -/
def State.skipIf (s : State) (c : Bool) : State := if c then s.advance else s

/-- `Fx0A` with no key pressed undoes the fetch advance (45_keypad_timers.md R194). -/
def State.backUp (s : State) : State := s.setPC (s.pc - 2#16)

/-! ## The call stack (10_state.md R26, R27) -/

/-- Store at `STACK[SP]`, then add 1; none on the full stack. -/
def State.push (s : State) (a : Word) : Option State :=
  if h : s.sp.val < 16 then
    some (s.setStack (s.stack.set s.sp.val a h) ⟨s.sp.val + 1, Nat.succ_lt_succ h⟩)
  else none

/-- Subtract 1, then read `STACK[SP]`; none on the empty stack. The entry keeps its value. -/
def State.pop (s : State) : Option (Word × State) :=
  if 0 < s.sp.val then
    some (s.stack[s.sp.val - 1]'(by have := s.sp.isLt; omega),
      s.setStack s.stack ⟨s.sp.val - 1, Nat.lt_of_le_of_lt (Nat.sub_le _ _) s.sp.isLt⟩)
  else none

/-! ## Taking a fault -/

/-- The numbering of 60_exceptions.md R220; 0 is `None`. -/
def faultCode : Option FaultCause → Nat
  | none => 0
  | some .stackOverflow => 1
  | some .stackUnderflow => 2

/-- `FLT` keeps the first cause (60_exceptions.md R223). -/
def latchFault (flt : Option FaultCause) (c : FaultCause) : Option FaultCause :=
  match flt with
  | none => some c
  | some first => some first

/-- `PC_f`, the address of the instruction being executed: `PC` - 2 modulo 65536 (R223; log 6). -/
def State.pcf (s : State) : Word := s.pc - 2#16

/-- `raise <Fault>(PC_f, OPCODE)`: latch the cause and report it; no other write (60_exceptions.md R223, R224). `PC`
keeps its advanced value (R221, R222). -/
def State.raise (s : State) (c : FaultCause) : State :=
  s.setFault (latchFault s.flt c) (.fault c s.pcf s.opcode)

/-! ## The display (44_display.md) -/

/-- All cells unlit (R181). -/
def Display.blank : Display := Vector.replicate 32 (Vector.replicate 64 false)

/-- The cell in row `py`, column `px`; outside the grid there is no cell, and nothing is lit (R184). -/
def Display.lit (d : Display) (py px : Nat) : Bool :=
  if h : py < 32 ∧ px < 64 then d[py][px] else false

/-- XOR of one cell with 1. Outside the grid it is clipped: nothing changes (R182, R184; log 9). -/
def Display.toggle (d : Display) (py px : Nat) : Display :=
  if h : py < 32 ∧ px < 64 then d.set py (d[py].set px (!d[py][px])) else d

/-- The `DISP` read port (10_state.md R42). -/
def State.cell (s : State) (py px : Nat) : Bool := s.disp.lit py px

/-- The sprite bit of column `col`: bit 7 is the leftmost column (44_display.md R186). PRESUMED: the spec takes the
order from general knowledge (log 10). -/
def spriteBit (b : Byte) (col : Nat) : Bool := b.getLsbD (7 - col)

/-- One sprite bit at a cell: a set bit toggles it, and is a collision if it was lit (R182). The pair is the display
and the collision so far. -/
def plotBit (acc : Display × Bool) (bit : Bool) (py px : Nat) : Display × Bool :=
  if bit then (acc.1.toggle py px, acc.2 || acc.1.lit py px) else acc

/-- One sprite row: columns 0 to 7 in order (R182). -/
def plotRow (acc : Display × Bool) (b : Byte) (py ox : Nat) : Display × Bool :=
  (List.range 8).foldl (fun acc col => plotBit acc (spriteBit b col) py (ox + col)) acc

/-- The first `n` rows of the sprite whose bytes are `bytes row`, with its origin at (`ox`, `oy`) (R182). -/
def plotSprite (acc : Display × Bool) (bytes : Nat → Byte) (ox oy n : Nat) : Display × Bool :=
  (List.range n).foldl (fun acc row => plotRow acc (bytes row) (oy + row) ox) acc

/-! ## The phases of a step (40_step_and_dispatch.md R100) -/

/-- The inputs of the coming step: the head of the script, or free values when there is none (log 1). -/
def State.nextInput (s : State) : StepInput :=
  match s.inputs with
  | [] => ⟨Config.freeKeys s.draws, Config.freeByte s.draws⟩
  | i :: _ => i

/-- `KEYS` and `RND` are sampled once, when the step begins (10_state.md R40, R41). -/
def State.sampleInputs (s : State) : State :=
  (s.setSample s.nextInput.keys s.nextInput.rnd).setInputs s.inputs.tail (s.draws + 1)

/-- Phase 1: `OPCODE <- MemRead(PC, 2)` (R101). -/
def State.fetch (s : State) : State := s.setOpcode (s.memRead2 s.pc.toNat)

/-- What precedes the execute phase: the inputs sampled, no fault reported yet, fetch, advance (R100 phases 1, 2). -/
def State.begin (s : State) : State := ((s.sampleInputs.setOutcome .ok).fetch).advance

/-- `if DT > 0 then DT <- DT - 1` (R105). -/
def State.tickDelay (s : State) : State := if s.dt = 0#8 then s else s.setDT (s.dt - 1#8)

/-- A nonzero `ST` emits one tone request carrying it, and is zeroed (R107). -/
def State.tickSound (s : State) : State :=
  if s.st = 0#8 then s.setTone none else (s.setTone (some s.st)).setST 0#8

/-- Phase 4, in every step (R105 to R107). -/
def State.timerPhase (s : State) : State := s.tickDelay.tickSound

end Sys2Proof.Machine
end

