-- ==== Sys2Proof/Machine/Operands.lean ====
section
/-! DEFINITION. The operand forms (30_encoding.md R73, 43_index_memory.md R160, 45_keypad_timers.md R190). A register
operand is `State.readV`; `kk` is used as it is. -/

namespace Sys2Proof.Machine

/-- A 12-bit address, zero-extended (30_encoding.md R73). -/
def addrWord (nnn : Addr) : Word := nnn.setWidth 16

/-- A byte, zero-extended to 16 bits. -/
def byteWord (b : Byte) : Word := b.setWidth 16

/-- `EA(k) = (I + k) mod 4096`, the address of byte `k` of a data access (43_index_memory.md R160). -/
def State.ea (s : State) (k : Nat) : Nat := memIndex (s.i.toNat + k)

/-- The registers `V[0]` to `V[x]`, in ascending order (43_index_memory.md R165, R166). -/
def regsUpTo (x : Reg) : List Reg := (List.finRange 16).take (x.val + 1)

/-- `V[x][3:0]`, the key that `Ex9E` and `ExA1` test (45_keypad_timers.md R190; log 13). -/
def keySelect (b : Byte) : Nat := b.toNat % 16

/-- Whether key `k` is pressed in this step's snapshot (10_state.md R40). -/
def State.keyPressed (s : State) (k : Nat) : Bool := s.keys.getLsbD k

/-- Scan the keys 0 to 15 in ascending order for a pressed one (45_keypad_timers.md R194). -/
def State.firstKey (s : State) : Option Nat := (List.range 16).find? s.keyPressed

/-- `0x0050 + 5 * V[x]`, the whole 8-bit value, no masking (43_index_memory.md R163; log 14). -/
def fontAddress (b : Byte) : Word := BitVec.ofNat 16 Config.fontBase + 5#16 * byteWord b

/-- The hundreds digit (43_index_memory.md R164). -/
def hundreds (b : Byte) : Byte := b / 100#8

/-- The tens digit. -/
def tens (b : Byte) : Byte := (b / 10#8) % 10#8

/-- The ones digit. -/
def ones (b : Byte) : Byte := b % 10#8

/-- `Vx mod 64`, the column of a sprite's origin (44_display.md R182). -/
def originX (b : Byte) : Nat := b.toNat % 64

/-- `Vy mod 32`, the row of a sprite's origin. -/
def originY (b : Byte) : Nat := b.toNat % 32

end Sys2Proof.Machine
end

