-- ==== Sys2Proof/Machine/Alu.lean ====
section
/-! DEFINITION. Register loads, arithmetic, logic, shifts, random (42_alu.md). Statements take effect in the order
written, each reading the registers as the ones before left them (R141; log 11). -/

namespace Sys2Proof.Machine

/-- `6xkk` LD Vx, byte (R142). -/
def execLdImm (x : Reg) (kk : Byte) (s : State) : Result := .next (s.writeV x kk)

/-- `7xkk` ADD Vx, byte (R143): no flag. -/
def execAddImm (x : Reg) (kk : Byte) (s : State) : Result := .next (s.writeV x (s.readV x + kk))

/-- `8xy0` LD Vx, Vy (R144). -/
def execLdReg (x y : Reg) (s : State) : Result := .next (s.writeV x (s.readV y))

/-- `8xy1` OR Vx, Vy (R145). -/
def execOr (x y : Reg) (s : State) : Result := .next (s.writeV x (s.readV x ||| s.readV y))

/-- `8xy2` AND Vx, Vy (R146). -/
def execAnd (x y : Reg) (s : State) : Result := .next (s.writeV x (s.readV x &&& s.readV y))

/-- `8xy3` XOR Vx, Vy (R147). -/
def execXor (x y : Reg) (s : State) : Result := .next (s.writeV x (s.readV x ^^^ s.readV y))

/-- `8xy4` ADD Vx, Vy (R148): the sum is latched, then VF, then Vx. -/
def execAddReg (x y : Reg) (s : State) : Result :=
  let sum := wideSum (s.readV x) (s.readV y)
  .next ((s.writeFlag (carryFlag sum)).writeV x (sumByte sum))

/-- `8xy5` SUB Vx, Vy (R149): VF, then Vx from the registers as they then are. -/
def execSub (x y : Reg) (s : State) : Result :=
  let t := s.writeFlag (greaterFlag (s.readV x) (s.readV y))
  .next (t.writeV x (t.readV x - t.readV y))

/-- `8xy6` SHR Vx (R150). -/
def execShr (x : Reg) (s : State) : Result :=
  let t := s.writeFlag (lowBitFlag (s.readV x))
  .next (t.writeV x (t.readV x >>> 1))

/-- `8xy7` SUBN Vx, Vy (R151). -/
def execSubn (x y : Reg) (s : State) : Result :=
  let t := s.writeFlag (greaterFlag (s.readV y) (s.readV x))
  .next (t.writeV x (t.readV y - t.readV x))

/-- `8xyE` SHL Vx (R152). -/
def execShl (x : Reg) (s : State) : Result :=
  let t := s.writeFlag (highBitFlag (s.readV x))
  .next (t.writeV x (t.readV x <<< 1))

/-- `Cxkk` RND Vx, byte (R153): the step's random byte, which nothing constrains (log 1). -/
def execRnd (x : Reg) (kk : Byte) (s : State) : Result := .next (s.writeV x (s.rnd &&& kk))

end Sys2Proof.Machine
end

