-- ==== Sys2Proof/Machine/Control.lean ====
section
/-! DEFINITION. Control transfer and the no-operation fallback (41_control_flow.md, 40_step_and_dispatch.md R110). `PC`
already holds the address of the instruction plus 2 (R102). -/

namespace Sys2Proof.Machine

/-- `00EE` (R121): underflow on the empty stack (60_exceptions.md R222). -/
def State.ret (s : State) : State :=
  match s.pop with
  | none => s.raise .stackUnderflow
  | some (a, t) => t.setPC a

/-- `2nnn` (R123): overflow on the full stack (60_exceptions.md R221); else the advanced `PC` is pushed. -/
def State.call (s : State) (target : Word) : State :=
  match s.push s.pc with
  | none => s.raise .stackOverflow
  | some t => t.setPC target

/-- `00EE` RET (R121). -/
def execRet (s : State) : Result := .next s.ret

/-- `1nnn` JP addr (R122). -/
def execJp (nnn : Addr) (s : State) : Result := .next (s.setPC (addrWord nnn))

/-- `2nnn` CALL addr (R123). -/
def execCall (nnn : Addr) (s : State) : Result := .next (s.call (addrWord nnn))

/-- `Bnnn` JP V0, addr (R124). -/
def execJpV0 (nnn : Addr) (s : State) : Result := .next (s.setPC (byteWord (s.readV 0) + addrWord nnn))

/-- `3xkk` SE Vx, byte (R125). -/
def execSeImm (x : Reg) (kk : Byte) (s : State) : Result := .next (s.skipIf (s.readV x == kk))

/-- `4xkk` SNE Vx, byte (R126). -/
def execSneImm (x : Reg) (kk : Byte) (s : State) : Result := .next (s.skipIf (s.readV x != kk))

/-- `5xy0` SE Vx, Vy (R127). -/
def execSeReg (x y : Reg) (s : State) : Result := .next (s.skipIf (s.readV x == s.readV y))

/-- `9xy0` SNE Vx, Vy (R128). -/
def execSneReg (x y : Reg) (s : State) : Result := .next (s.skipIf (s.readV x != s.readV y))

/-- NOP, "Any unmatched" (R110): nothing. -/
def execNop (s : State) : Result := .next s

end Sys2Proof.Machine
end

