-- ==== Sys2Proof/Machine/IndexMemory.lean ====
section
/-! DEFINITION. The index register and the memory instructions (43_index_memory.md). None changes `I` but the three
that write it (R160). -/

namespace Sys2Proof.Machine

/-- `Annn` LD I, addr (R161). -/
def execLdI (nnn : Addr) (s : State) : Result := .next (s.setI (addrWord nnn))

/-- `Fx1E` ADD I, Vx (R162): modulo 65536, no flag. -/
def execAddI (x : Reg) (s : State) : Result := .next (s.setI (s.i + byteWord (s.readV x)))

/-- `Fx29` LD F, Vx (R163). -/
def execLdF (x : Reg) (s : State) : Result := .next (s.setI (fontAddress (s.readV x)))

/-- `Fx33` LD B, Vx (R164): hundreds, tens and ones at `I`, `I+1`, `I+2`. -/
def execLdB (x : Reg) (s : State) : Result :=
  let b := s.readV x
  .next (s.memWriteAll s.i.toNat [hundreds b, tens b, ones b])

/-- `Fx55` LD [I], Vx (R165): `for k in 0 .. x: MemWrite(I + k, 1, V[k])`. -/
def execStRegs (x : Reg) (s : State) : Result := .next (s.memWriteAll s.i.toNat ((regsUpTo x).map s.readV))

/-- `for k in ks: V[k] <- MemRead(I + k, 1)` (R166). -/
def State.loadRegs (s : State) : List Reg → State
  | [] => s
  | k :: ks => (s.writeV k (s.memRead1 (s.ea k.val))).loadRegs ks

/-- `Fx65` LD Vx, [I] (R166). -/
def execLdRegs (x : Reg) (s : State) : Result := .next (s.loadRegs (regsUpTo x))

end Sys2Proof.Machine
end

