-- ==== Sys2Proof/Machine/KeypadTimers.lean ====
section
/-! DEFINITION. Keypad and timer instructions (45_keypad_timers.md). `keys` is the snapshot of the step (R40). -/

namespace Sys2Proof.Machine

/-- `Ex9E` SKP Vx (R191). -/
def execSkp (x : Reg) (s : State) : Result := .next (s.skipIf (s.keyPressed (keySelect (s.readV x))))

/-- `ExA1` SKNP Vx (R192). -/
def execSknp (x : Reg) (s : State) : Result := .next (s.skipIf (!s.keyPressed (keySelect (s.readV x))))

/-- The wait for a key: the least pressed key, or the same instruction again (R194, R195). -/
def State.waitKey (s : State) (x : Reg) : State :=
  match s.firstKey with
  | none => s.backUp
  | some k => s.writeV x (BitVec.ofNat 8 k)

/-- `Fx0A` LD Vx, K (R194). -/
def execLdVxK (x : Reg) (s : State) : Result := .next (s.waitKey x)

/-- `Fx07` LD Vx, DT (R193). -/
def execLdVxDt (x : Reg) (s : State) : Result := .next (s.writeV x s.dt)

/-- `Fx15` LD DT, Vx (R196). -/
def execLdDtVx (x : Reg) (s : State) : Result := .next (s.setDT (s.readV x))

/-- `Fx18` LD ST, Vx (R197). -/
def execLdStVx (x : Reg) (s : State) : Result := .next (s.setST (s.readV x))

end Sys2Proof.Machine
end

