-- ==== Sys2Proof/Machine/Screen.lean ====
section
/-! DEFINITION. The display instructions (44_display.md). -/

namespace Sys2Proof.Machine

/-- `00E0` CLS (R181). -/
def execCls (s : State) : Result := .next (s.setDisp Display.blank)

/-- The display and the collision after drawing `n` rows at `I` with the origin from `V[x]`, `V[y]` (R182). -/
def State.drawn (s : State) (x y : Reg) (n : Nibble) : Display × Bool :=
  plotSprite (s.disp, false) (fun row => s.memRead1 (s.ea row)) (originX (s.readV x)) (originY (s.readV y)) n.toNat

/-- `Dxyn` DRW Vx, Vy, nibble (R182): the origin is latched first, VF is written last (R183). -/
def execDrw (x y : Reg) (n : Nibble) (s : State) : Result :=
  let d := s.drawn x y n
  .next ((s.setDisp d.1).writeFlag d.2)

end Sys2Proof.Machine
end

