-- ==== Sys2Proof/Machine/Ports.lean ====
section
/-! DEFINITION. The requests of the host other than `step` (10_state.md R38, R44). They are served between steps. -/

namespace Sys2Proof.Machine

/-- The result of a `load` request (10_state.md R44). -/
inductive LoadResult where
  | ok
  /-- More than 3584 bytes (60_exceptions.md R229). It is no fault of the instruction stream. -/
  | loadError
  deriving DecidableEq, Repr

/-- `load(bytes)` (70_reset_and_hazards.md R255 to R257): the bytes from 0x200 upward, or nothing at all. -/
def load (bytes : List Byte) (s : State) : LoadResult × State :=
  if bytes.length ≤ Config.romMax then (.ok, s.memWriteAll Config.romBase bytes) else (.loadError, s)

/-- The machine right after `reset` (10_state.md R46), for any value of the open parameter `FONTSET` (00_scope.md R5):
the fontset is written from `FONT_BASE` upward (10_state.md R25; log 8). With the default it is `State.reset`. -/
def State.resetWith (font : Fontset) : State := State.reset.memWriteAll Config.fontBase font.toList

/-- `reset` (10_state.md R38, 70_reset_and_hazards.md R250) of a machine whose `FONTSET` is `font`: every piece of
state to its reset value. The inputs still to come are the outside's, so a request leaves them (log 18). -/
def resetRequest (font : Fontset) (s : State) : State := (State.resetWith font).setInputs s.inputs s.draws

/-- Presents `KEYS` and `RND` to the very next step (10_state.md R39). -/
def State.present (s : State) (keys : BitVec 16) (rnd : Byte) : State :=
  s.setInputs (⟨keys, rnd⟩ :: s.inputs) s.draws

end Sys2Proof.Machine
end

