-- ==== Sys2Proof/Machine/Step.lean ====
section
/-! DEFINITION. The step (40_step_and_dispatch.md R100). -/

namespace Sys2Proof.Machine

/-- One `step` request: sample, fetch, advance, execute, timer phase. `OUTCOME` stands in the state after (R108). -/
def step (s : State) : Host.Outcome State Fault Refusal :=
  match exec (decodeWord s.begin.opcode) s.begin with
  | .next t => .next t.timerPhase
  | .fault f => .fault f
  | .refused r => .refused r

/-- A `step` request with its inputs given (10_state.md R39). -/
def stepRequest (keys : BitVec 16) (rnd : Byte) (s : State) : Host.Outcome State Fault Refusal :=
  step (s.present keys rnd)

/-- `s` with the instruction whose table bits are `w` stored at `PC`, high byte first (20_memory.md R54). -/
def State.withFetchWord (s : State) (nbits w : Nat) : State :=
  let op : Word := BitVec.ofNat 16 (w % 2 ^ nbits)
  s.memWriteAll s.pc.toNat [highByte op, lowByte op]

end Sys2Proof.Machine
end

