-- ==== Sys2Proof/Safety.lean ====
section
/-! DEFINITION. What counts as a safe state and a safe run, and the words the claims are made of: the parts of the
state, which of them two states agree on, and which of them an instruction may touch. -/

namespace Sys2Proof.Machine

/-! ## Safe states -/

/-- What holds between steps. Memory is in canonical form; `ST` is 0 (10_state.md R29); a step that reported a fault
left a cause in the latch (60_exceptions.md R223). -/
def State.Inv (s : State) : Prop :=
  s.mem.wf = true ∧ s.st = 0#8 ∧ (s.outcome ≠ .ok → s.flt ≠ none)

/-- No fault so far: the premise a claim about a program takes or proves (60_exceptions.md R226). -/
def State.FaultFree (s : State) : Prop := s.flt = none

/-! ## The instruction at `PC` -/

/-- The bytes at `PC` and the address after it (20_memory.md R55). -/
def State.bytesAtPC (s : State) : List Byte := [s.memRead1 s.pc.toNat, s.memRead1 (s.pc.toNat + 1)]

/-- The opcode those bytes are. -/
def State.opcodeAtPC (s : State) : Word := wordOfBytes (s.memRead1 s.pc.toNat) (s.memRead1 (s.pc.toNat + 1))

/-- The instruction the next step executes. -/
def State.current (s : State) : Instr := decodeWord s.opcodeAtPC

/-! ## The parts of the state, and frames -/

inductive Part where
  | mem | regs | i | pc | stack | dt | st | disp | opcode | flt | sample | inputs | tone | outcome
  deriving DecidableEq, Repr

/-- Two states agree on a part. Memory is compared through the read of one byte, the display through the read of one
cell; `stack` is the entries and `SP`. -/
def Agree (s t : State) : Part → Prop
  | .mem => ∀ a, t.memRead1 a = s.memRead1 a
  | .regs => ∀ r, t.readV r = s.readV r
  | .i => t.i = s.i
  | .pc => t.pc = s.pc
  | .stack => t.stack = s.stack ∧ t.sp = s.sp
  | .dt => t.dt = s.dt
  | .st => t.st = s.st
  | .disp => ∀ py px, t.cell py px = s.cell py px
  | .opcode => t.opcode = s.opcode
  | .flt => t.flt = s.flt
  | .sample => t.keys = s.keys ∧ t.rnd = s.rnd
  | .inputs => t.inputs = s.inputs ∧ t.draws = s.draws
  | .tone => t.tone = s.tone
  | .outcome => t.outcome = s.outcome

/-- Only the listed parts may differ. -/
def KeepsExcept (ps : List Part) (s t : State) : Prop := ∀ p, p ∉ ps → Agree s t p

/-- Only the listed registers may differ. -/
def RegsExcept (rs : List Reg) (s t : State) : Prop := ∀ r, r ∉ rs → t.readV r = s.readV r

/-- The parts a step itself writes around the handler, `PC` apart: `OPCODE`, the timers, the inputs and outputs
(40_step_and_dispatch.md R100). -/
def stepParts : List Part := [.opcode, .dt, .st, .sample, .inputs, .tone, .outcome]

/-- The parts of the state that the handler of an instruction may write (10_state.md R47). -/
def writes : Instr → List Part
  | .cls _ => [.disp]
  | .ret _ => [.pc, .stack, .flt, .outcome]
  | .call _ => [.pc, .stack, .flt, .outcome]
  | .jp _ | .jpV0 _ => [.pc]
  | .seImm _ _ | .sneImm _ _ | .seReg _ _ _ | .sneReg _ _ _ | .skp _ _ | .sknp _ _ => [.pc]
  | .ldImm _ _ | .addImm _ _ | .ldReg _ _ | .or _ _ | .and _ _ | .xor _ _ | .addReg _ _ | .sub _ _ | .shr _ _
  | .subn _ _ | .shl _ _ | .rnd _ _ | .ldVxDt _ | .ldRegs _ => [.regs]
  | .ldVxK _ => [.regs, .pc]
  | .ldI _ | .addI _ | .ldF _ => [.i]
  | .drw _ _ _ => [.disp, .regs]
  | .ldDtVx _ => [.dt]
  | .ldStVx _ => [.st]
  | .ldB _ | .stRegs _ => [.mem]
  | .nop _ => []

/-- The registers an instruction may write: the destination it names, and VF for the six that write it as a flag
(10_state.md R22, R47). -/
def destRegs : Instr → List Reg
  | .ldImm x _ | .addImm x _ | .ldReg x _ | .or x _ | .and x _ | .xor x _ | .rnd x _ | .ldVxDt x | .ldVxK x => [x]
  | .addReg x _ | .sub x _ | .shr x _ | .subn x _ | .shl x _ => [x, Reg.vf]
  | .drw _ _ _ => [Reg.vf]
  | .ldRegs x => regsUpTo x
  | .cls _ | .ret _ | .jp _ | .call _ | .seImm _ _ | .sneImm _ _ | .seReg _ _ _ | .sneReg _ _ _ | .ldI _
  | .jpV0 _ | .skp _ _ | .sknp _ _ | .ldDtVx _ | .ldStVx _ | .addI _ | .ldF _ | .ldB _ | .stRegs _ | .nop _ => []

/-- The instructions that read `KEYS` (10_state.md R40). -/
def readsKeys : Instr → Bool
  | .skp _ _ | .sknp _ _ | .ldVxK _ => true
  | .cls _ | .ret _ | .jp _ | .call _ | .seImm _ _ | .sneImm _ _ | .seReg _ _ _ | .ldImm _ _ | .addImm _ _
  | .ldReg _ _ | .or _ _ | .and _ _ | .xor _ _ | .addReg _ _ | .sub _ _ | .shr _ _ | .subn _ _ | .shl _ _
  | .sneReg _ _ _ | .ldI _ | .jpV0 _ | .rnd _ _ | .drw _ _ _ | .ldVxDt _ | .ldDtVx _ | .ldStVx _ | .addI _
  | .ldF _ | .ldB _ | .stRegs _ | .ldRegs _ | .nop _ => false

/-- The one instruction that consumes `RND` (10_state.md R41). -/
def readsRnd : Instr → Bool
  | .rnd _ _ => true
  | .cls _ | .ret _ | .jp _ | .call _ | .seImm _ _ | .sneImm _ _ | .seReg _ _ _ | .ldImm _ _ | .addImm _ _
  | .ldReg _ _ | .or _ _ | .and _ _ | .xor _ _ | .addReg _ _ | .sub _ _ | .shr _ _ | .subn _ _ | .shl _ _
  | .sneReg _ _ _ | .ldI _ | .jpV0 _ | .drw _ _ _ | .skp _ _ | .sknp _ _ | .ldVxDt _ | .ldVxK _ | .ldDtVx _
  | .ldStVx _ | .addI _ | .ldF _ | .ldB _ | .stRegs _ | .ldRegs _ | .nop _ => false

/-- The condition of a skip instruction; none for every other instruction (41_control_flow.md R125 to R128,
45_keypad_timers.md R191, R192). -/
def skipCondition (s : State) : Instr → Option Bool
  | .seImm x kk => some (decide (s.readV x = kk))
  | .sneImm x kk => some (decide (s.readV x ≠ kk))
  | .seReg x y _ => some (decide (s.readV x = s.readV y))
  | .sneReg x y _ => some (decide (s.readV x ≠ s.readV y))
  | .skp x _ => some (s.keys.getLsbD ((s.readV x).toNat % 16))
  | .sknp x _ => some (!s.keys.getLsbD ((s.readV x).toNat % 16))
  | .cls _ | .ret _ | .jp _ | .call _ | .ldImm _ _ | .addImm _ _ | .ldReg _ _ | .or _ _ | .and _ _ | .xor _ _
  | .addReg _ _ | .sub _ _ | .shr _ _ | .subn _ _ | .shl _ _ | .ldI _ | .jpV0 _ | .rnd _ _ | .drw _ _ _
  | .ldVxDt _ | .ldVxK _ | .ldDtVx _ | .ldStVx _ | .addI _ | .ldF _ | .ldB _ | .stRegs _ | .ldRegs _
  | .nop _ => none

/-- Whether a sprite of `n` rows at `I`, with its origin at (`ox`, `oy`), has a set bit for the cell in row `py`,
column `px` (44_display.md R182, R186). -/
def State.spriteCovers (s : State) (ox oy n py px : Nat) : Prop :=
  oy ≤ py ∧ py < oy + n ∧ ox ≤ px ∧ px < ox + 8 ∧
    (s.memRead1 (s.ea (py - oy))).getLsbD (7 - (px - ox)) = true

/-- An instruction with its ignored bits as in its row's canonical pattern (30_encoding.md R80, R81). -/
def canonicalForm : Instr → Instr
  | .cls _ => .cls 0x0E#8
  | .ret _ => .ret 0x0E#8
  | .seReg x y _ => .seReg x y 0x0#4
  | .sneReg x y _ => .sneReg x y 0x0#4
  | .skp x _ => .skp x 0x9#4
  | .sknp x _ => .sknp x 0xA#4
  | .jp a => .jp a
  | .call a => .call a
  | .seImm x kk => .seImm x kk
  | .sneImm x kk => .sneImm x kk
  | .ldImm x kk => .ldImm x kk
  | .addImm x kk => .addImm x kk
  | .ldReg x y => .ldReg x y
  | .or x y => .or x y
  | .and x y => .and x y
  | .xor x y => .xor x y
  | .addReg x y => .addReg x y
  | .sub x y => .sub x y
  | .shr x y => .shr x y
  | .subn x y => .subn x y
  | .shl x y => .shl x y
  | .ldI a => .ldI a
  | .jpV0 a => .jpV0 a
  | .rnd x kk => .rnd x kk
  | .drw x y n => .drw x y n
  | .ldVxDt x => .ldVxDt x
  | .ldVxK x => .ldVxK x
  | .ldDtVx x => .ldDtVx x
  | .ldStVx x => .ldStVx x
  | .addI x => .addI x
  | .ldF x => .ldF x
  | .ldB x => .ldB x
  | .stRegs x => .stRegs x
  | .ldRegs x => .ldRegs x
  | .nop op => .nop op

/-- The cells of the grid (10_state.md R33). -/
def onGrid (py px : Nat) : Prop := py < 32 ∧ px < 64

end Sys2Proof.Machine
end

