-- ==== Sys2Proof/Certificates/Slice0/Obligations.lean ====
section
/-! DEFINITION. The statements for the provers, in the order of spec/: reset and ports, memory, the step, control
transfer, registers, index and memory instructions, display, keypad and timers, encoding. A statement that a rule
marked by the spec as its own decision or inference carries says so, and names the log entry. -/

namespace Sys2Proof.Claims

/-- Every opcode equal to `m` under `mask` decodes to the instruction built from its fields (30_encoding.md R78). -/
def RowDecodes (mask m : Word) (build : Word → Instr) : Prop :=
  ∀ op : Word, op &&& mask = m → decodeWord op = build op

/-- A row of the opcode map, rows 1 to 34 of 30_encoding.md R78. -/
structure OpcodeRow where
  mask : Word
  m : Word
  build : Word → Instr

/-- Rows 1 to 21 of the opcode map, without family 0xF. -/
def opcodeRowsLow : List OpcodeRow :=
  [⟨0xF00F#16, 0x0000#16, fun op => .cls (fieldMiddle op)⟩,
   ⟨0xF00F#16, 0x000E#16, fun op => .ret (fieldMiddle op)⟩,
   ⟨0xF000#16, 0x1000#16, fun op => .jp (fieldNNN op)⟩,
   ⟨0xF000#16, 0x2000#16, fun op => .call (fieldNNN op)⟩,
   ⟨0xF000#16, 0x3000#16, fun op => .seImm (fieldX op) (fieldKK op)⟩,
   ⟨0xF000#16, 0x4000#16, fun op => .sneImm (fieldX op) (fieldKK op)⟩,
   ⟨0xF000#16, 0x5000#16, fun op => .seReg (fieldX op) (fieldY op) (fieldN op)⟩,
   ⟨0xF000#16, 0x6000#16, fun op => .ldImm (fieldX op) (fieldKK op)⟩,
   ⟨0xF000#16, 0x7000#16, fun op => .addImm (fieldX op) (fieldKK op)⟩,
   ⟨0xF00F#16, 0x8000#16, fun op => .ldReg (fieldX op) (fieldY op)⟩,
   ⟨0xF00F#16, 0x8001#16, fun op => .or (fieldX op) (fieldY op)⟩,
   ⟨0xF00F#16, 0x8002#16, fun op => .and (fieldX op) (fieldY op)⟩,
   ⟨0xF00F#16, 0x8003#16, fun op => .xor (fieldX op) (fieldY op)⟩,
   ⟨0xF00F#16, 0x8004#16, fun op => .addReg (fieldX op) (fieldY op)⟩,
   ⟨0xF00F#16, 0x8005#16, fun op => .sub (fieldX op) (fieldY op)⟩,
   ⟨0xF00F#16, 0x8006#16, fun op => .shr (fieldX op) (fieldY op)⟩,
   ⟨0xF00F#16, 0x8007#16, fun op => .subn (fieldX op) (fieldY op)⟩,
   ⟨0xF00F#16, 0x800E#16, fun op => .shl (fieldX op) (fieldY op)⟩]

/-- The other rows of the opcode map. -/
def opcodeRowsHigh : List OpcodeRow :=
  [⟨0xF000#16, 0x9000#16, fun op => .sneReg (fieldX op) (fieldY op) (fieldN op)⟩,
   ⟨0xF000#16, 0xA000#16, fun op => .ldI (fieldNNN op)⟩,
   ⟨0xF000#16, 0xB000#16, fun op => .jpV0 (fieldNNN op)⟩,
   ⟨0xF000#16, 0xC000#16, fun op => .rnd (fieldX op) (fieldKK op)⟩,
   ⟨0xF000#16, 0xD000#16, fun op => .drw (fieldX op) (fieldY op) (fieldN op)⟩,
   ⟨0xF00F#16, 0xE00E#16, fun op => .skp (fieldX op) (fieldThird op)⟩,
   ⟨0xF00F#16, 0xE001#16, fun op => .sknp (fieldX op) (fieldThird op)⟩,
   ⟨0xF0FF#16, 0xF007#16, fun op => .ldVxDt (fieldX op)⟩,
   ⟨0xF0FF#16, 0xF00A#16, fun op => .ldVxK (fieldX op)⟩,
   ⟨0xF0FF#16, 0xF015#16, fun op => .ldDtVx (fieldX op)⟩,
   ⟨0xF0FF#16, 0xF018#16, fun op => .ldStVx (fieldX op)⟩,
   ⟨0xF0FF#16, 0xF01E#16, fun op => .addI (fieldX op)⟩,
   ⟨0xF0FF#16, 0xF029#16, fun op => .ldF (fieldX op)⟩,
   ⟨0xF0FF#16, 0xF033#16, fun op => .ldB (fieldX op)⟩,
   ⟨0xF0FF#16, 0xF055#16, fun op => .stRegs (fieldX op)⟩,
   ⟨0xF0FF#16, 0xF065#16, fun op => .ldRegs (fieldX op)⟩]

/-- The decoder as "a flat lookup keyed by the full opcode pattern with wildcard bits" (R87): the first row whose
masked comparison holds, row 35 as the default. -/
def decodeFlat (op : Word) : Instr :=
  match (opcodeRowsLow ++ opcodeRowsHigh).find? (fun r => op &&& r.mask == r.m) with
  | some r => r.build op
  | none => .nop op

/-- The value of VF for a condition. -/
def bit (c : Bool) : Byte := if c then 1#8 else 0#8

end Sys2Proof.Claims

open Sys2Proof Sys2Proof.Machine Sys2Proof.Claims

/-! ## Reset, load -/

/-- The reset table (10_state.md R46), for every value of the parameter `FONTSET`, for the reset state and for a `reset`
request in any state; `State.reset` is that of the default table. The values of `I`, `SP`, `STACK`, `DT`, `ST`,
`OPCODE`, `FLT` are the spec's decisions D15 and D4 (log 3); that `reset` is the same as construction is its decision
D16 (log 18); the bytes of the default table are the spec's general knowledge (log 8). -/
def Obligations.ResetGivesTheResetTable : Prop :=
  State.reset = State.resetWith defaultFontset ∧
  ∀ (font : Fontset) (s r : State), r = State.resetWith font ∨ r = resetRequest font s →
    (∀ k : Reg, r.readV k = 0#8) ∧ r.pc = 0x0200#16 ∧ r.i = 0#16 ∧ r.sp.val = 0 ∧ (∀ k : Fin 16, r.stack[k] = 0#16) ∧
    r.dt = 0#8 ∧ r.st = 0#8 ∧ r.opcode = 0#16 ∧ r.flt = none ∧ (∀ py px, r.cell py px = false) ∧
    (∀ (d row : Nat) (hd : d < 16) (hr : row < 5), r.memRead1 (0x050 + 5 * d + row) = font[5 * d + row]) ∧
    (∀ a : Nat, a < 0x050 ∨ (0x0A0 ≤ a ∧ a ≤ 0xFFF) → r.memRead1 a = 0#8)

/-- The invariant of every step holds at reset, whatever the `FONTSET` (Inv: Safety.lean). Its memory form is the
model's representation (log 22). Its `ST` clause is R29, but that `ST` is 0 at reset is the spec's decision D15 (log 3).
Its clause on a reported fault holds at reset because `OUTCOME` is Ok there, which is the model's choice (log 2): the
spec gives a port no reset value. -/
def Obligations.ResetSatisfiesTheInvariant : Prop := State.reset.Inv ∧ ∀ font : Fontset, (State.resetWith font).Inv

/-- R255, R256. -/
def Obligations.LoadWritesTheRomOrNothing : Prop :=
  ∀ (bytes : List Byte) (s : State),
    (bytes.length ≤ 3584 → (load bytes s).1 = .ok ∧
      ∀ k (h : k < bytes.length), memIndex (0x200 + k) = 0x200 + k ∧ (load bytes s).2.memRead1 (0x200 + k) = bytes[k]) ∧
    (3584 < bytes.length → load bytes s = (.loadError, s))

/-- R257, the spec's decision D25 (log 17): `load` touches only the bytes supplied, a request of no bytes nothing. -/
def Obligations.LoadTouchesOnlyTheBytesSupplied : Prop :=
  ∀ (bytes : List Byte) (s : State), KeepsExcept [.mem] s (load bytes s).2 ∧ load [] s = (.ok, s) ∧
    ∀ a : Nat, memIndex a < 0x200 ∨ 0x200 + bytes.length ≤ memIndex a → (load bytes s).2.memRead1 a = s.memRead1 a

/-! ## Memory -/

/-- R52, R53, R58: a read returns the last value written to that byte, every address modulo 4096 (the spec's decision
D5, log 7). -/
def Obligations.MemoryReadReturnsLastWrite : Prop :=
  ∀ (s : State) (a b : Nat) (v : Byte),
    (s.memWrite a v).memRead1 b = (if b % 4096 = a % 4096 then v else s.memRead1 b) ∧
    s.memRead1 (b + 4096) = s.memRead1 b ∧
    s.memRead2 b = wordOfBytes (s.memRead1 b) (s.memRead1 (b + 1))

/-- Two memories in canonical form with the same 4096 bytes are the same data (the model's representation, log 22). -/
def Obligations.CanonicalMemoriesWithEqualBytesAreEqual : Prop :=
  ∀ m m' : Memory, m.wf = true → m'.wf = true → (∀ a, a < 4096 → m.get a = m'.get a) → m = m'

/-- R65, an inference of the spec: a store to the bytes at `PC` is what the next fetch reads, across the top of memory
too. -/
def Obligations.StoreIsSeenByTheNextFetch : Prop :=
  ∀ (s : State) (hi lo : Byte),
    ((s.memWrite s.pc.toNat hi).memWrite (s.pc.toNat + 1) lo).current = decodeWord (wordOfBytes hi lo)

/-! ## The step -/

/-- R100: fetch, advance, execute, timer phase, report, and nothing else. How the step gets its inputs (`keys` and `rnd`
from `nextInput`, `inputs` and `draws` moved on) is the model's choice, log 1 (DESIGN CHOICE), and so is that the outputs
stand in the state, log 5 (DESIGN CHOICE). -/
def Obligations.StepRunsTheDecodedInstruction : Prop :=
  ∀ (s : State) (i : Instr), decode s.bytesAtPC = .ok (i, []) → i.wf = true →
    step s =
      match exec i { s with
          keys := s.nextInput.keys, rnd := s.nextInput.rnd, inputs := s.inputs.tail, draws := s.draws + 1
          outcome := .ok, opcode := s.opcodeAtPC, pc := s.pc + 2#16 } with
      | .next t => .next { t with
          dt := if 0 < t.dt.toNat then t.dt - 1#8 else t.dt
          tone := if 0 < t.st.toNat then some t.st else none
          st := 0#8 }
      | .fault f => .fault f
      | .refused r => .refused r

/-- R108, R109 (an inference of the spec): no instruction blocks or stops the machine; decoding never fails (R85). -/
def Obligations.EveryStepCompletes : Prop :=
  ∀ s : State, (∃ t, step s = .next t) ∧ decode s.bytesAtPC = .ok (s.current, []) ∧ s.current.wf = true

/-- Every step keeps the invariant (Safety.lean): canonical memory, `ST` = 0, a reported fault is latched. -/
def Obligations.StepKeepsTheInvariant : Prop :=
  ∀ s t : State, s.Inv → step s = .next t → t.Inv

/-- R31, R223, the spec's decision D4 (log 4): `FLT` keeps the first cause, and takes one exactly from a step that
reports a fault. That the report carries `PC_f` and `OPCODE` is the model's choice, log 5 (DESIGN CHOICE; R223 lets the
outcome carry them); that `PC_f` is the `PC` before the step is log 6 (DEDUCED). -/
def Obligations.FaultLatchKeepsTheFirstCause : Prop :=
  ∀ s t : State, step s = .next t →
    (∀ c, s.flt = some c → t.flt = some c) ∧
    (s.flt = none → t.outcome = .ok → t.flt = none) ∧
    (∀ c a w, s.flt = none → t.outcome = .fault c a w → t.flt = some c) ∧
    (∀ c a w, t.outcome = .fault c a w → a = s.pc ∧ w = s.opcodeAtPC ∧ t.pc = s.pc + 2#16 ∧
      ((c = .stackOverflow ∧ s.sp.val = 16 ∧ ∃ nnn, s.current = .call nnn) ∨
       (c = .stackUnderflow ∧ s.sp.val = 0 ∧ ∃ m, s.current = .ret m)))

/-- R105. -/
def Obligations.DelayTimerCountsSteps : Prop :=
  ∀ s t : State, step s = .next t →
    (∃ h, exec s.current s.begin = .next h ∧ t.dt = if 0 < h.dt.toNat then h.dt - 1#8 else 0#8) ∧
    ((∀ x, s.current ≠ .ldDtVx x) → t.dt = if 0 < s.dt.toNat then s.dt - 1#8 else 0#8) ∧
    (∀ x, s.current = .ldDtVx x → 0 < (s.readV x).toNat → t.dt = s.readV x - 1#8) ∧
    (∀ x, s.current = .ldDtVx x → (s.readV x).toNat = 0 → t.dt = 0#8) ∧
    (∀ x, s.current = .ldVxDt x → t.readV x = s.dt)

/-- R107, the spec's decisions D13 and D14 (log 15): `ST` is 0 after every step, and the step emits one tone request
exactly when it found `ST` nonzero after the handler. -/
def Obligations.SoundTimerFiresOnceAndIsZeroed : Prop :=
  ∀ s t : State, step s = .next t →
    t.st = 0#8 ∧
    (∀ x, s.current = .ldStVx x → t.tone = if s.readV x = 0#8 then none else some (s.readV x)) ∧
    ((∀ x, s.current ≠ .ldStVx x) → t.tone = if s.st = 0#8 then none else some s.st)

/-- R47, an inference of the spec: an instruction not listed for a part of the state does not touch it. -/
def Obligations.InstructionsTouchOnlyTheirParts : Prop :=
  ∀ (i : Instr) (s t : State), exec i s = .next t → KeepsExcept (writes i) s t

/-- R22, the spec's decision D29: a register changes only as the destination an instruction names, or as VF under
one of the six that write it as a flag (destRegs: Safety.lean). -/
def Obligations.RegistersChangeOnlyWhereNamed : Prop :=
  ∀ (i : Instr) (s t : State), exec i s = .next t → RegsExcept (destRegs i) s t

/-- R40, R41, the spec's decisions D23 and D24: `KEYS` influences three instructions only and `RND` one only. -/
def Obligations.InputsInfluenceOnlyTheirReaders : Prop :=
  ∀ (i : Instr) (s t : State) (keys : BitVec 16) (rnd : Byte), exec i s = .next t →
    (readsKeys i = false → exec i (s.setSample keys s.rnd) = .next (t.setSample keys t.rnd)) ∧
    (readsRnd i = false → exec i (s.setSample s.keys rnd) = .next (t.setSample t.keys rnd))

/-- R26, the spec's decision D2 (log 16): no instruction reads a stack entry at index `SP` or above. -/
def Obligations.StaleStackEntriesAreUnreadable : Prop :=
  ∀ (i : Instr) (s t : State) (k : Vector Word 16), exec i s = .next t →
    (∀ (j : Nat) (h : j < 16), j < s.sp.val → k[j] = s.stack[j]) →
    ∃ t', exec i (s.setStack k s.sp) = .next t' ∧ t'.sp = t.sp ∧ KeepsExcept [.stack] t t' ∧
      ∀ (j : Nat) (h : j < 16), j < t.sp.val → t'.stack[j] = t.stack[j]

/-! ## Control transfer -/

/-- R122. -/
def Obligations.JumpSetsPC : Prop :=
  RowDecodes 0xF000#16 0x1000#16 (fun op => .jp (fieldNNN op)) ∧
  (∀ (nnn : Addr) (s : State), ∃ t, exec (.jp nnn) s = .next t ∧ t.pc.toNat = nnn.toNat ∧ t.pc.toNat ≤ 0x0FFF ∧
    KeepsExcept [.pc] s t) ∧
  (∀ (nnn : Addr) (s : State), s.current = .jp nnn → s.pc.toNat = nnn.toNat →
    ∀ n : Nat, ∃ t, Host.Core.run core n s = .next t ∧ KeepsExcept stepParts s t)

/-- R124, the spec's decision D6 (log 7): the 16-bit sum, not reduced to 12 bits. -/
def Obligations.IndexedJumpAddsV0 : Prop :=
  RowDecodes 0xF000#16 0xB000#16 (fun op => .jpV0 (fieldNNN op)) ∧
  ∀ (nnn : Addr) (s : State), ∃ t, exec (.jpV0 nnn) s = .next t ∧
    t.pc.toNat = (s.readV 0).toNat + nnn.toNat ∧ KeepsExcept [.pc] s t

/-- R123, the spec's decisions D2 and D30 (log 16). -/
def Obligations.CallPushesTheAdvancedPC : Prop :=
  RowDecodes 0xF000#16 0x2000#16 (fun op => .call (fieldNNN op)) ∧
  ∀ (nnn : Addr) (s : State), s.sp.val < 16 → ∃ t, exec (.call nnn) s = .next t ∧
    t.pc.toNat = nnn.toNat ∧ t.sp.val = s.sp.val + 1 ∧
    (∀ (j : Nat) (h : j < 16), t.stack[j] = if j = s.sp.val then s.pc else s.stack[j]) ∧
    KeepsExcept [.pc, .stack] s t

/-- R221, the spec's decision D3 (log 4): the seventeenth call writes nothing, latches and reports. That the report
carries `PC_f` and `OPCODE` is the model's choice, log 5 (DESIGN CHOICE); `PC_f` as `PC` - 2 is log 6 (DEDUCED). -/
def Obligations.CallOnAFullStackFaults : Prop :=
  ∀ (nnn : Addr) (s : State), s.sp.val = 16 → ∃ t, exec (.call nnn) s = .next t ∧
    t.flt = some (s.flt.getD .stackOverflow) ∧ t.outcome = .fault .stackOverflow (s.pc - 2#16) s.opcode ∧
    KeepsExcept [.flt, .outcome] s t

/-- R121, the spec's decision D2 (log 16); aliases included. -/
def Obligations.ReturnPopsIntoPC : Prop :=
  RowDecodes 0xF00F#16 0x000E#16 (fun op => .ret (fieldMiddle op)) ∧
  ∀ (m : BitVec 8) (s : State), 0 < s.sp.val → ∃ t, exec (.ret m) s = .next t ∧
    t.sp.val = s.sp.val - 1 ∧ (∀ (j : Nat) (h : j < 16), j = s.sp.val - 1 → t.pc = s.stack[j]) ∧
    t.stack = s.stack ∧ KeepsExcept [.pc, .stack] s t

/-- R222, the spec's decision D3 (log 4). That the report carries `PC_f` and `OPCODE` is the model's choice, log 5
(DESIGN CHOICE); `PC_f` as `PC` - 2 is log 6 (DEDUCED). -/
def Obligations.ReturnOnAnEmptyStackFaults : Prop :=
  ∀ (m : BitVec 8) (s : State), s.sp.val = 0 → ∃ t, exec (.ret m) s = .next t ∧
    t.flt = some (s.flt.getD .stackUnderflow) ∧ t.outcome = .fault .stackUnderflow (s.pc - 2#16) s.opcode ∧
    KeepsExcept [.flt, .outcome] s t

/-- R121, R123 together: a return resumes after its call, whatever the subroutine did, if it left the stack as the
call did; the entries below are untouched. -/
def Obligations.ReturnResumesAfterTheCall : Prop :=
  ∀ (nnn : Addr) (m : BitVec 8) (s t u : State), s.sp.val < 16 → exec (.call nnn) s = .next t →
    u.stack = t.stack → u.sp = t.sp →
    ∃ w, exec (.ret m) u = .next w ∧ w.pc = s.pc ∧ w.sp = s.sp ∧
      ∀ (j : Nat) (h : j < 16), j < s.sp.val → w.stack[j] = s.stack[j]

/-- R125, R126. -/
def Obligations.ImmediateSkips : Prop :=
  RowDecodes 0xF000#16 0x3000#16 (fun op => .seImm (fieldX op) (fieldKK op)) ∧
  RowDecodes 0xF000#16 0x4000#16 (fun op => .sneImm (fieldX op) (fieldKK op)) ∧
  ∀ (x : Reg) (kk : Byte) (s : State),
    (∃ t, exec (.seImm x kk) s = .next t ∧ t.pc = (if s.readV x = kk then s.pc + 2#16 else s.pc) ∧
      KeepsExcept [.pc] s t) ∧
    (∃ t, exec (.sneImm x kk) s = .next t ∧ t.pc = (if s.readV x ≠ kk then s.pc + 2#16 else s.pc) ∧
      KeepsExcept [.pc] s t)

/-- R127, R128; aliases included. -/
def Obligations.RegisterSkips : Prop :=
  RowDecodes 0xF000#16 0x5000#16 (fun op => .seReg (fieldX op) (fieldY op) (fieldN op)) ∧
  RowDecodes 0xF000#16 0x9000#16 (fun op => .sneReg (fieldX op) (fieldY op) (fieldN op)) ∧
  ∀ (x y : Reg) (z : Nibble) (s : State),
    (∃ t, exec (.seReg x y z) s = .next t ∧ t.pc = (if s.readV x = s.readV y then s.pc + 2#16 else s.pc) ∧
      KeepsExcept [.pc] s t) ∧
    (∃ t, exec (.sneReg x y z) s = .next t ∧ t.pc = (if s.readV x ≠ s.readV y then s.pc + 2#16 else s.pc) ∧
      KeepsExcept [.pc] s t)

/-- R129: a step that executes a skip leaves `PC` = `PC_f` + 4 or + 2, writes nothing else and cannot fault. The
conditions are those of R125 to R128 and R190 to R192 (`skipCondition`); the key that `Ex9E` and `ExA1` test is the
spec's decision D11 (log 13), among keys sampled as in log 1 (DESIGN CHOICE). -/
def Obligations.SkipStepLeavesPCTwoOrFourOn : Prop :=
  ∀ (s : State) (c : Bool), skipCondition s.begin s.current = some c →
    ∃ t, step s = .next t ∧ t.pc = s.pc + (if c then 4#16 else 2#16) ∧ t.outcome = .ok ∧
      KeepsExcept (.pc :: stepParts) s t

/-! ## Registers -/

/-- R142, R143. -/
def Obligations.ImmediateLoadAndAdd : Prop :=
  RowDecodes 0xF000#16 0x6000#16 (fun op => .ldImm (fieldX op) (fieldKK op)) ∧
  RowDecodes 0xF000#16 0x7000#16 (fun op => .addImm (fieldX op) (fieldKK op)) ∧
  ∀ (x : Reg) (kk : Byte) (s : State),
    (∃ t, exec (.ldImm x kk) s = .next t ∧ t.readV x = kk ∧ RegsExcept [x] s t ∧ KeepsExcept [.regs] s t) ∧
    (∃ t, exec (.addImm x kk) s = .next t ∧ (t.readV x).toNat = ((s.readV x).toNat + kk.toNat) % 256 ∧
      RegsExcept [x] s t ∧ KeepsExcept [.regs] s t)

/-- R144 to R147: no flag, VF is written only as the destination. -/
def Obligations.RegisterCopyAndLogic : Prop :=
  RowDecodes 0xF00F#16 0x8000#16 (fun op => .ldReg (fieldX op) (fieldY op)) ∧
  RowDecodes 0xF00F#16 0x8001#16 (fun op => .or (fieldX op) (fieldY op)) ∧
  RowDecodes 0xF00F#16 0x8002#16 (fun op => .and (fieldX op) (fieldY op)) ∧
  RowDecodes 0xF00F#16 0x8003#16 (fun op => .xor (fieldX op) (fieldY op)) ∧
  ∀ (x y : Reg) (s : State),
    (∃ t, exec (.ldReg x y) s = .next t ∧ t.readV x = s.readV y ∧ RegsExcept [x] s t ∧ KeepsExcept [.regs] s t) ∧
    (∃ t, exec (.or x y) s = .next t ∧ t.readV x = s.readV x ||| s.readV y ∧ RegsExcept [x] s t ∧
      KeepsExcept [.regs] s t) ∧
    (∃ t, exec (.and x y) s = .next t ∧ t.readV x = s.readV x &&& s.readV y ∧ RegsExcept [x] s t ∧
      KeepsExcept [.regs] s t) ∧
    (∃ t, exec (.xor x y) s = .next t ∧ t.readV x = s.readV x ^^^ s.readV y ∧ RegsExcept [x] s t ∧
      KeepsExcept [.regs] s t)

/-- R148: every form, VF as an operand or the destination included. -/
def Obligations.AddRegisterSetsCarry : Prop :=
  RowDecodes 0xF00F#16 0x8004#16 (fun op => .addReg (fieldX op) (fieldY op)) ∧
  ∀ (x y : Reg) (s : State), ∃ t, exec (.addReg x y) s = .next t ∧
    (t.readV x).toNat = ((s.readV x).toNat + (s.readV y).toNat) % 256 ∧
    (x ≠ Reg.vf → t.readV Reg.vf = bit (decide (255 < (s.readV x).toNat + (s.readV y).toNat))) ∧
    RegsExcept [x, Reg.vf] s t ∧ KeepsExcept [.regs] s t

/-- R149, R151 with the cases of R154 (an inference of the spec from its decision D1, log 11): the flag is the strict
comparison of the old values; where VF is an operand or the destination the later statements see the new flag. -/
def Obligations.SubtractionsSetGreaterThan : Prop :=
  RowDecodes 0xF00F#16 0x8005#16 (fun op => .sub (fieldX op) (fieldY op)) ∧
  RowDecodes 0xF00F#16 0x8007#16 (fun op => .subn (fieldX op) (fieldY op)) ∧
  ∀ (x y : Reg) (s : State),
    (∃ t, exec (.sub x y) s = .next t ∧ RegsExcept [x, Reg.vf] s t ∧ KeepsExcept [.regs] s t ∧
      (x ≠ Reg.vf → t.readV Reg.vf = bit (decide ((s.readV y).toNat < (s.readV x).toNat))) ∧
      (x ≠ Reg.vf → y ≠ Reg.vf → t.readV x = s.readV x - s.readV y) ∧
      (x ≠ Reg.vf → y = Reg.vf → t.readV x = s.readV x - bit (decide ((s.readV y).toNat < (s.readV x).toNat))) ∧
      (x = Reg.vf → y ≠ Reg.vf →
        t.readV Reg.vf = bit (decide ((s.readV y).toNat < (s.readV Reg.vf).toNat)) - s.readV y) ∧
      (x = Reg.vf → y = Reg.vf → t.readV Reg.vf = 0#8)) ∧
    (∃ t, exec (.subn x y) s = .next t ∧ RegsExcept [x, Reg.vf] s t ∧ KeepsExcept [.regs] s t ∧
      (x ≠ Reg.vf → t.readV Reg.vf = bit (decide ((s.readV x).toNat < (s.readV y).toNat))) ∧
      (x ≠ Reg.vf → y ≠ Reg.vf → t.readV x = s.readV y - s.readV x) ∧
      (x ≠ Reg.vf → y = Reg.vf → t.readV x = bit (decide ((s.readV x).toNat < (s.readV y).toNat)) - s.readV x) ∧
      (x = Reg.vf → y ≠ Reg.vf →
        t.readV Reg.vf = s.readV y - bit (decide ((s.readV Reg.vf).toNat < (s.readV y).toNat))) ∧
      (x = Reg.vf → y = Reg.vf → t.readV Reg.vf = 0#8))

/-- R150, R152 with the cases of R154 (the spec's decisions D1 and D28, log 11): the `y` field is not used. -/
def Obligations.ShiftsSetTheBitShiftedOut : Prop :=
  RowDecodes 0xF00F#16 0x8006#16 (fun op => .shr (fieldX op) (fieldY op)) ∧
  RowDecodes 0xF00F#16 0x800E#16 (fun op => .shl (fieldX op) (fieldY op)) ∧
  ∀ (x y : Reg) (s : State),
    (∃ t, exec (.shr x y) s = .next t ∧ RegsExcept [x, Reg.vf] s t ∧ KeepsExcept [.regs] s t ∧
      (x ≠ Reg.vf → (t.readV x).toNat = (s.readV x).toNat / 2 ∧ (t.readV Reg.vf).toNat = (s.readV x).toNat % 2) ∧
      (x = Reg.vf → t.readV Reg.vf = 0#8)) ∧
    (∃ t, exec (.shl x y) s = .next t ∧ RegsExcept [x, Reg.vf] s t ∧ KeepsExcept [.regs] s t ∧
      (x ≠ Reg.vf → (t.readV x).toNat = 2 * (s.readV x).toNat % 256 ∧
        (t.readV Reg.vf).toNat = (s.readV x).toNat / 128) ∧
      (x = Reg.vf → (t.readV Reg.vf).toNat = 2 * ((s.readV Reg.vf).toNat / 128)))

/-- R153, the spec's decision D23 (log 1), for every value of the random byte: all a program may rely on is the mask. -/
def Obligations.RandomByteIsMasked : Prop :=
  RowDecodes 0xF000#16 0xC000#16 (fun op => .rnd (fieldX op) (fieldKK op)) ∧
  ∀ (x : Reg) (kk : Byte) (s : State), ∃ t, exec (.rnd x kk) s = .next t ∧
    t.readV x = s.rnd &&& kk ∧ t.readV x &&& ~~~kk = 0#8 ∧ RegsExcept [x] s t ∧ KeepsExcept [.regs] s t

/-! ## The index register and memory instructions -/

/-- R161. -/
def Obligations.LoadIndex : Prop :=
  RowDecodes 0xF000#16 0xA000#16 (fun op => .ldI (fieldNNN op)) ∧
  ∀ (nnn : Addr) (s : State), ∃ t, exec (.ldI nnn) s = .next t ∧ t.i.toNat = nnn.toNat ∧ t.i.toNat ≤ 0x0FFF ∧
    KeepsExcept [.i] s t

/-- R162 and R163, the spec's decisions D7 and D12 (log 14): 16 bits kept, the whole 8-bit value multiplied. -/
def Obligations.IndexAddAndFontAddress : Prop :=
  RowDecodes 0xF0FF#16 0xF01E#16 (fun op => .addI (fieldX op)) ∧
  RowDecodes 0xF0FF#16 0xF029#16 (fun op => .ldF (fieldX op)) ∧
  ∀ (x : Reg) (s : State),
    (∃ t, exec (.addI x) s = .next t ∧ t.i.toNat = (s.i.toNat + (s.readV x).toNat) % 65536 ∧ KeepsExcept [.i] s t) ∧
    (∃ t, exec (.ldF x) s = .next t ∧ t.i.toNat = 0x0050 + 5 * (s.readV x).toNat ∧ KeepsExcept [.i] s t)

/-- R164. -/
def Obligations.DecimalDigitsAreStored : Prop :=
  RowDecodes 0xF0FF#16 0xF033#16 (fun op => .ldB (fieldX op)) ∧
  ∀ (x : Reg) (s : State), ∃ t, exec (.ldB x) s = .next t ∧
    (t.memRead1 (s.ea 0)).toNat = (s.readV x).toNat / 100 ∧
    (t.memRead1 (s.ea 1)).toNat = (s.readV x).toNat / 10 % 10 ∧
    (t.memRead1 (s.ea 2)).toNat = (s.readV x).toNat % 10 ∧
    (∀ a : Nat, memIndex a ≠ s.ea 0 → memIndex a ≠ s.ea 1 → memIndex a ≠ s.ea 2 → t.memRead1 a = s.memRead1 a) ∧
    KeepsExcept [.mem] s t

/-- R165, the spec's decision D27 (log 27): `I` is unchanged. -/
def Obligations.StoreRegistersWritesThePrefix : Prop :=
  RowDecodes 0xF0FF#16 0xF055#16 (fun op => .stRegs (fieldX op)) ∧
  ∀ (x : Reg) (s : State), ∃ t, exec (.stRegs x) s = .next t ∧
    (∀ k : Reg, k ≤ x → t.memRead1 (s.ea k.val) = s.readV k) ∧
    (∀ a : Nat, (∀ k : Reg, k ≤ x → memIndex a ≠ s.ea k.val) → t.memRead1 a = s.memRead1 a) ∧
    KeepsExcept [.mem] s t

/-- R166, the spec's decision D27 (log 27). -/
def Obligations.LoadRegistersReadsThePrefix : Prop :=
  RowDecodes 0xF0FF#16 0xF065#16 (fun op => .ldRegs (fieldX op)) ∧
  ∀ (x : Reg) (s : State), ∃ t, exec (.ldRegs x) s = .next t ∧
    (∀ k : Reg, k ≤ x → t.readV k = s.memRead1 (s.ea k.val)) ∧
    (∀ k : Reg, x < k → t.readV k = s.readV k) ∧
    KeepsExcept [.regs] s t

/-- R167, an inference of the spec: with the same `I` and `x` and the stored bytes intact, the registers come back. -/
def Obligations.StoreThenLoadRestoresRegisters : Prop :=
  ∀ (x : Reg) (s t u : State), exec (.stRegs x) s = .next t → u.i = s.i →
    (∀ k : Reg, k ≤ x → u.memRead1 (s.ea k.val) = t.memRead1 (s.ea k.val)) →
    ∃ w, exec (.ldRegs x) u = .next w ∧ ∀ k : Reg, k ≤ x → w.readV k = s.readV k

/-! ## The display -/

/-- R181; aliases included. -/
def Obligations.ClearUnlightsEveryCell : Prop :=
  RowDecodes 0xF00F#16 0x0000#16 (fun op => .cls (fieldMiddle op)) ∧
  ∀ (m : BitVec 8) (s : State), ∃ t, exec (.cls m) s = .next t ∧ (∀ py px, t.cell py px = false) ∧
    KeepsExcept [.disp] s t

/-- R182 to R184, R186, the spec's decisions D1, D8, D9, D10 (log 9, log 10, log 27): each cell of the grid that the sprite
covers with a set bit is toggled, no other; VF is 1 exactly if one of them was lit. -/
def Obligations.DrawTogglesTheCoveredCells : Prop :=
  RowDecodes 0xF000#16 0xD000#16 (fun op => .drw (fieldX op) (fieldY op) (fieldN op)) ∧
  ∀ (x y : Reg) (n : Nibble) (s : State),
    ∃ t, exec (.drw x y n) s = .next t ∧
    (∀ py px, onGrid py px →
      (s.spriteCovers ((s.readV x).toNat % 64) ((s.readV y).toNat % 32) n.toNat py px →
        t.cell py px = !s.cell py px) ∧
      (¬s.spriteCovers ((s.readV x).toNat % 64) ((s.readV y).toNat % 32) n.toNat py px →
        t.cell py px = s.cell py px)) ∧
    ((∃ py px, onGrid py px ∧ s.cell py px = true ∧
        s.spriteCovers ((s.readV x).toNat % 64) ((s.readV y).toNat % 32) n.toNat py px) →
      t.readV Reg.vf = 1#8) ∧
    ((∀ py px, onGrid py px → s.cell py px = true →
        ¬s.spriteCovers ((s.readV x).toNat % 64) ((s.readV y).toNat % 32) n.toNat py px) →
      t.readV Reg.vf = 0#8) ∧
    RegsExcept [Reg.vf] s t ∧ KeepsExcept [.disp, .regs] s t

/-- R185, an inference of the spec: the same draw twice restores the display; from a clear display the first draw has
VF = 0, and the second VF = 1 exactly if the sprite has a set bit on the grid. Which cell a set bit covers is log 10
(PRESUMED, the spec's decision D9), and that a bit beyond the grid is clipped is log 9 (the spec's decision D8). A form
whose origin is in VF, changed by the first draw, is left out as R185 leaves it out: its second origin differs. -/
def Obligations.DrawingTwiceRestoresTheDisplay : Prop :=
  ∀ (x y : Reg) (n : Nibble) (s t u : State), exec (.drw x y n) s = .next t → exec (.drw x y n) t = .next u →
    ((x ≠ Reg.vf ∧ y ≠ Reg.vf) ∨ t.readV Reg.vf = s.readV Reg.vf) →
    (∀ py px, u.cell py px = s.cell py px) ∧
    ((∀ py px, s.cell py px = false) → t.readV Reg.vf = 0#8 ∧
      (u.readV Reg.vf = 1#8 ↔ ∃ py px, onGrid py px ∧
        s.spriteCovers ((s.readV x).toNat % 64) ((s.readV y).toNat % 32) n.toNat py px))

/-! ## Keypad and timers -/

/-- R190 to R192, the spec's decision D11 (log 13): the low four bits select the key; aliases included. -/
def Obligations.KeySkips : Prop :=
  RowDecodes 0xF00F#16 0xE00E#16 (fun op => .skp (fieldX op) (fieldThird op)) ∧
  RowDecodes 0xF00F#16 0xE001#16 (fun op => .sknp (fieldX op) (fieldThird op)) ∧
  ∀ (x : Reg) (z : Nibble) (s : State),
    (∃ t, exec (.skp x z) s = .next t ∧ KeepsExcept [.pc] s t ∧
      t.pc = if s.keys.getLsbD ((s.readV x).toNat % 16) = true then s.pc + 2#16 else s.pc) ∧
    (∃ t, exec (.sknp x z) s = .next t ∧ KeepsExcept [.pc] s t ∧
      t.pc = if s.keys.getLsbD ((s.readV x).toNat % 16) = true then s.pc else s.pc + 2#16)

/-- R194, the spec's decision D35 (log 29): the least pressed key, or the fetch advance undone. -/
def Obligations.KeyWaitTakesTheLeastKey : Prop :=
  RowDecodes 0xF0FF#16 0xF00A#16 (fun op => .ldVxK (fieldX op)) ∧
  ∀ (x : Reg) (s : State), ∃ t, exec (.ldVxK x) s = .next t ∧
    (s.keys = 0#16 → t.pc = s.pc - 2#16 ∧ KeepsExcept [.pc] s t) ∧
    (∀ k : Nat, k < 16 → s.keys.getLsbD k = true → (∀ j, j < k → s.keys.getLsbD j = false) →
      (t.readV x).toNat = k ∧ RegsExcept [x] s t ∧ KeepsExcept [.regs] s t)

/-- R195, the spec's decision D33 (log 25): a waiting step is a complete step that leaves `PC` at the instruction and
runs the timer phase. -/
def Obligations.WaitingStepChangesOnlyTimers : Prop :=
  ∀ (x : Reg) (s : State), s.current = .ldVxK x → s.nextInput.keys = 0#16 →
    ∃ t, step s = .next t ∧ t.pc = s.pc ∧ KeepsExcept stepParts s t ∧
      t.dt = (if s.dt = 0#8 then 0#8 else s.dt - 1#8) ∧ t.outcome = .ok

/-- R193: the handler, and the step around it. -/
def Obligations.DelayTimerIsReadBeforeTheDecrement : Prop :=
  RowDecodes 0xF0FF#16 0xF007#16 (fun op => .ldVxDt (fieldX op)) ∧
  (∀ (x : Reg) (s : State), ∃ t, exec (.ldVxDt x) s = .next t ∧ t.readV x = s.dt ∧ RegsExcept [x] s t ∧
    KeepsExcept [.regs] s t) ∧
  (∀ (x : Reg) (s : State), s.current = .ldVxDt x → ∃ t, step s = .next t ∧ t.readV x = s.dt ∧
    (s.dt ≠ 0#8 → t.readV x = t.dt + 1#8) ∧ (s.dt = 0#8 → t.readV x = 0#8 ∧ t.dt = 0#8))

/-- R196 and R197 (the spec's decision D13, log 15), the handlers; the step around them is
DelayTimerCountsSteps and SoundTimerFiresOnceAndIsZeroed. -/
def Obligations.TimersAreSetFromARegister : Prop :=
  RowDecodes 0xF0FF#16 0xF015#16 (fun op => .ldDtVx (fieldX op)) ∧
  RowDecodes 0xF0FF#16 0xF018#16 (fun op => .ldStVx (fieldX op)) ∧
  ∀ (x : Reg) (s : State),
    (∃ t, exec (.ldDtVx x) s = .next t ∧ t.dt = s.readV x ∧ KeepsExcept [.dt] s t) ∧
    (∃ t, exec (.ldStVx x) s = .next t ∧ t.st = s.readV x ∧ KeepsExcept [.st] s t)

/-! ## The no-operation fallback -/

/-- R110: the handler does nothing; the step around it advances `PC` by 2 and runs the timer phase, whose tone request
is R107, the spec's decisions D13 and D14 (log 15), held in the state (log 5, DESIGN CHOICE). -/
def Obligations.NoOperationOnlyAdvances : Prop :=
  (∀ op : Word, isNopWord op = true → decodeWord op = .nop op) ∧
  (∀ (op : Word) (s : State), exec (.nop op) s = .next s) ∧
  (∀ (op : Word) (s : State), s.current = .nop op → ∃ t, step s = .next t ∧ t.pc = s.pc + 2#16 ∧ t.outcome = .ok ∧
    t.opcode = s.opcodeAtPC ∧ t.dt = (if s.dt = 0#8 then 0#8 else s.dt - 1#8) ∧ t.st = 0#8 ∧
    t.tone = (if s.st = 0#8 then none else some s.st) ∧ KeepsExcept (.pc :: stepParts) s t)

/-! ## Encoding -/

/-- Every well-formed instruction, with every operand at every value, comes back from its bytes, whatever follows. -/
def Obligations.DecodeOfEncodeGivesTheInstructionBack : Prop :=
  ∀ (i : Instr) (rest : List Byte), i.wf = true → decode (encodeBytes i ++ rest) = .ok (i, rest)

/-- Every opcode comes back from the instruction it decodes to, which is well-formed: no bit of an opcode is dropped,
the ignored ones included (log 20). -/
def Obligations.EncodeOfDecodeGivesTheOpcodeBack : Prop :=
  ∀ op : Word, encode (decodeWord op) = op ∧ (decodeWord op).wf = true

/-- R78, R87: the two-level dispatch is the flat mask and match table, whose rows are pairwise disjoint. -/
def Obligations.DispatchIsTheOpcodeMap : Prop :=
  (∀ op : Word, decodeWord op = decodeFlat op) ∧
  (opcodeRowsLow ++ opcodeRowsHigh).length = 34 ∧
  (opcodeRowsLow ++ opcodeRowsHigh).Pairwise
    (fun a b => ∀ op : Word, ¬(op &&& a.mask = a.m ∧ op &&& b.mask = b.m))

/-- R79, an inference of the spec: exactly the no-operation set, family by family, decodes to NOP. -/
def Obligations.NoOperationSetIsExact : Prop :=
  ∀ op : Word, (∃ w, decodeWord op = .nop w) ↔
    ((op.extractLsb' 12 4 = 0x0#4 ∧ op.extractLsb' 0 4 ∉ [0x0#4, 0xE#4]) ∨
     (op.extractLsb' 12 4 = 0x8#4 ∧ op.extractLsb' 0 4 ∈ [0x8#4, 0x9#4, 0xA#4, 0xB#4, 0xC#4, 0xD#4, 0xF#4]) ∨
     (op.extractLsb' 12 4 = 0xE#4 ∧ op.extractLsb' 0 4 ∉ [0x1#4, 0xE#4]) ∨
     (op.extractLsb' 12 4 = 0xF#4 ∧
       op.extractLsb' 0 8 ∉ [0x07#8, 0x0A#8, 0x15#8, 0x18#8, 0x1E#8, 0x29#8, 0x33#8, 0x55#8, 0x65#8]))

/-- R80, R83, the spec's decision D34 (log 12): an alias executes exactly as the canonical encoding with the same
operand fields, which is canonical; a canonical opcode is its own. -/
def Obligations.AliasesExecuteAsTheCanonicalEncoding : Prop :=
  ∀ (op : Word) (s : State), (∀ w, decodeWord op ≠ .nop w) →
    exec (decodeWord op) s = exec (decodeWord (encode (canonicalForm (decodeWord op)))) s ∧
    canonical (encode (canonicalForm (decodeWord op))) = true ∧
    (canonical op = true ↔ encode (canonicalForm (decodeWord op)) = op)

/-- A few opcodes written out from the patterns of R78, aliases and no-operations among them. -/
def Obligations.WordsOfTheSpecDecode : Prop :=
  decodeWord 0x00E0#16 = .cls 0x0E#8 ∧ decodeWord 0x0000#16 = .cls 0x00#8 ∧ decodeWord 0x012E#16 = .ret 0x12#8 ∧
  decodeWord 0x1ABC#16 = .jp 0xABC#12 ∧ decodeWord 0x6A3C#16 = .ldImm 0xA 0x3C#8 ∧
  decodeWord 0x5127#16 = .seReg 1 2 0x7#4 ∧ decodeWord 0x8124#16 = .addReg 1 2 ∧ decodeWord 0xA123#16 = .ldI 0x123#12 ∧
  decodeWord 0xD125#16 = .drw 1 2 0x5#4 ∧ decodeWord 0xE49E#16 = .skp 4 0x9#4 ∧ decodeWord 0xF30A#16 = .ldVxK 3 ∧
  decodeWord 0xF255#16 = .stRegs 2 ∧ decodeWord 0xE000#16 = .nop 0xE000#16 ∧ decodeWord 0x8128#16 = .nop 0x8128#16
end

