-- ==== Sys2Proof/Laws/Memory.lean ====
section
/-! SUPPORT. The memory array: read after write, the canonical form is kept, and equal contents are equal data. -/

namespace Sys2Proof.Machine

theorem Memory.get_erase_same (m : Memory) (a : Nat) : (m.erase a).get a = Memory.unlisted a := by
  induction m with
  | nil => rfl
  | cons c m ih =>
    obtain ⟨k, b⟩ := c
    by_cases h : k = a
    · simpa [Memory.erase, h] using ih
    · simpa [Memory.erase, Memory.get, h] using ih

theorem Memory.get_erase_ne (m : Memory) {a b : Nat} (hab : b ≠ a) : (m.erase a).get b = m.get b := by
  induction m with
  | nil => rfl
  | cons c m ih =>
    obtain ⟨k, d⟩ := c
    have ih' : Memory.get (m.filter fun c => c.1 ≠ a) b = Memory.get m b := ih
    by_cases h : k = a
    · simpa [Memory.erase, Memory.get, h, Ne.symm hab] using ih'
    · by_cases hb : k = b
      · subst hb; simp [Memory.erase, Memory.get, h]
      · simpa [Memory.erase, Memory.get, h, hb] using ih'

/-- An inserted entry is found where no other entry has its address. -/
theorem Memory.get_insert (m : Memory) (a : Nat) (v : Byte) (b : Nat) (h : ∀ c ∈ m, c.1 ≠ a) :
    (Memory.insert a v m).get b = if b = a then v else m.get b := by
  induction m with
  | nil =>
    by_cases hb : b = a
    · simp [Memory.insert, Memory.get, hb]
    · simp [Memory.insert, Memory.get, hb, Ne.symm hb]
  | cons c m ih =>
    obtain ⟨k, d⟩ := c
    have hk : k ≠ a := h (k, d) (by simp)
    have ih' := ih fun c hc => h c (by simp [hc])
    by_cases hlt : a < k
    · by_cases hb : b = a
      · simp [Memory.insert, hlt, Memory.get, hb]
      · simp [Memory.insert, hlt, Memory.get, hb, Ne.symm hb]
    · by_cases hkb : k = b
      · subst hkb; simp [Memory.insert, hlt, Memory.get, hk]
      · simp [Memory.insert, hlt, Memory.get, hkb, ih']

theorem Memory.erase_ne (m : Memory) (a : Nat) : ∀ c ∈ m.erase a, c.1 ≠ a := by
  intro c hc
  simpa using (List.mem_filter.mp hc).2

/-- Read after write, for any list. -/
theorem Memory.get_set (m : Memory) (a : Nat) (v : Byte) (b : Nat) :
    (m.set a v).get b = if b = a then v else m.get b := by
  by_cases hv : v = Memory.unlisted a
  · by_cases hb : b = a
    · subst hb; simp [Memory.set, hv, Memory.get_erase_same]
    · simp [Memory.set, hv, hb, Memory.get_erase_ne m hb]
  · rw [Memory.set, if_neg hv, Memory.get_insert _ _ _ _ (m.erase_ne a)]
    by_cases hb : b = a
    · simp [hb]
    · simp [hb, Memory.get_erase_ne m hb]

/-! ## The canonical form -/

/-- The canonical form in terms of list predicates. -/
theorem Memory.wf_iff (m : Memory) : m.wf = true ↔
    m.Pairwise (fun c d => c.1 < d.1) ∧ ∀ c ∈ m, c.1 < Config.memSize ∧ c.2 ≠ Memory.unlisted c.1 := by
  have rising : ∀ m : Memory, Memory.rising m = true ↔ m.Pairwise (fun c d => c.1 < d.1) := by
    intro m
    induction m with
    | nil => simp [Memory.rising]
    | cons c m ih =>
      cases m with
      | nil => simp [Memory.rising]
      | cons d m =>
        obtain ⟨k, b⟩ := c
        obtain ⟨l, e⟩ := d
        have : Memory.rising ((k, b) :: (l, e) :: m) = true ↔ k < l ∧ Memory.rising ((l, e) :: m) = true := by
          simp [Memory.rising]
        rw [this, ih, List.pairwise_cons (a := (k, b))]
        refine and_congr_left fun hp => ⟨fun h x hx => ?_, fun h => h (l, e) (by simp)⟩
        rcases List.mem_cons.mp hx with rfl | hx
        · exact h
        · exact lt_trans h ((List.pairwise_cons.mp hp).1 x hx)
  rw [Memory.wf, Bool.and_eq_true, rising]
  simp

theorem Memory.mem_insert (a : Nat) (v : Byte) (m : Memory) (c : Host.Cell) :
    c ∈ Memory.insert a v m ↔ c = (a, v) ∨ c ∈ m := by
  induction m with
  | nil => simp [Memory.insert]
  | cons d m ih =>
    by_cases h : a < d.1
    · simp [Memory.insert, h]
    · simp [Memory.insert, h, ih, or_left_comm]

/-- Every write keeps the canonical form. -/
theorem Memory.wf_set (m : Memory) (a : Nat) (v : Byte) (ha : a < Config.memSize) (h : m.wf = true) :
    (m.set a v).wf = true := by
  rw [Memory.wf_iff] at h ⊢
  have hp : (m.erase a).Pairwise (fun c d => c.1 < d.1) := h.1.filter _
  have hc : ∀ c ∈ m.erase a, c.1 < Config.memSize ∧ c.2 ≠ Memory.unlisted c.1 :=
    fun c hc => h.2 c (List.mem_filter.mp hc).1
  by_cases hv : v = Memory.unlisted a
  · simpa only [Memory.set, if_pos hv] using ⟨hp, hc⟩
  · rw [Memory.set, if_neg hv]
    refine ⟨?_, ?_⟩
    · have key : ∀ l : Memory, l.Pairwise (fun c d => c.1 < d.1) → (∀ c ∈ l, c.1 ≠ a) →
          (Memory.insert a v l).Pairwise (fun c d => c.1 < d.1) := by
        intro l hl hne
        induction l with
        | nil => simp [Memory.insert]
        | cons d l ih =>
          obtain ⟨hd, hl'⟩ := List.pairwise_cons.mp hl
          have hda : d.1 ≠ a := hne d (by simp)
          by_cases hlt : a < d.1
          · rw [Memory.insert, if_pos hlt, List.pairwise_cons]
            refine ⟨fun x hx => ?_, hl⟩
            rcases List.mem_cons.mp hx with rfl | hx
            · exact hlt
            · exact lt_trans hlt (hd x hx)
          · rw [Memory.insert, if_neg hlt, List.pairwise_cons]
            refine ⟨fun x hx => ?_, ih hl' fun c hc => hne c (by simp [hc])⟩
            rcases (Memory.mem_insert a v l x).mp hx with rfl | hx
            · exact lt_of_le_of_ne (Nat.le_of_not_lt hlt) hda
            · exact hd x hx
      exact key _ hp (m.erase_ne a)
    · intro c hcm
      rcases (Memory.mem_insert a v _ c).mp hcm with rfl | hcm
      · exact ⟨ha, hv⟩
      · exact hc c hcm

/-- In canonical form an entry is what a read of its address gives. -/
theorem Memory.get_of_mem (m : Memory) (h : m.wf = true) (k : Nat) (b : Byte) (hm : (k, b) ∈ m) : m.get k = b := by
  have hp := ((Memory.wf_iff m).mp h).1
  clear h
  induction m with
  | nil => simp at hm
  | cons c m ih =>
    obtain ⟨l, d⟩ := c
    obtain ⟨hd, hp'⟩ := List.pairwise_cons.mp hp
    rcases List.mem_cons.mp hm with e | hm'
    · cases e; simp [Memory.get]
    · have : l ≠ k := Nat.ne_of_lt (hd (k, b) hm')
      simpa [Memory.get, this] using ih hm' hp'

end Sys2Proof.Machine
end

