-- ==== Sys2Proof/Laws/State.lean ====
section
/-! SUPPORT. One lemma per field per update, so that no proof unfolds a record update. The plain updates first, then
the operations of Machine/Ops.lean that are one update: the fields they leave alone. -/

namespace Sys2Proof.Machine

section setMem
variable (s : State) (m : Memory)
@[simp] theorem State.setMem_mem : (s.setMem m).mem = m := rfl
@[simp] theorem State.setMem_v : (s.setMem m).v = s.v := rfl
@[simp] theorem State.setMem_i : (s.setMem m).i = s.i := rfl
@[simp] theorem State.setMem_pc : (s.setMem m).pc = s.pc := rfl
@[simp] theorem State.setMem_stack : (s.setMem m).stack = s.stack := rfl
@[simp] theorem State.setMem_sp : (s.setMem m).sp = s.sp := rfl
@[simp] theorem State.setMem_dt : (s.setMem m).dt = s.dt := rfl
@[simp] theorem State.setMem_st : (s.setMem m).st = s.st := rfl
@[simp] theorem State.setMem_disp : (s.setMem m).disp = s.disp := rfl
@[simp] theorem State.setMem_opcode : (s.setMem m).opcode = s.opcode := rfl
@[simp] theorem State.setMem_flt : (s.setMem m).flt = s.flt := rfl
@[simp] theorem State.setMem_keys : (s.setMem m).keys = s.keys := rfl
@[simp] theorem State.setMem_rnd : (s.setMem m).rnd = s.rnd := rfl
@[simp] theorem State.setMem_inputs : (s.setMem m).inputs = s.inputs := rfl
@[simp] theorem State.setMem_draws : (s.setMem m).draws = s.draws := rfl
@[simp] theorem State.setMem_tone : (s.setMem m).tone = s.tone := rfl
@[simp] theorem State.setMem_outcome : (s.setMem m).outcome = s.outcome := rfl
end setMem

section setRegs
variable (s : State) (v : Vector Byte 16)
@[simp] theorem State.setRegs_mem : (s.setRegs v).mem = s.mem := rfl
@[simp] theorem State.setRegs_v : (s.setRegs v).v = v := rfl
@[simp] theorem State.setRegs_i : (s.setRegs v).i = s.i := rfl
@[simp] theorem State.setRegs_pc : (s.setRegs v).pc = s.pc := rfl
@[simp] theorem State.setRegs_stack : (s.setRegs v).stack = s.stack := rfl
@[simp] theorem State.setRegs_sp : (s.setRegs v).sp = s.sp := rfl
@[simp] theorem State.setRegs_dt : (s.setRegs v).dt = s.dt := rfl
@[simp] theorem State.setRegs_st : (s.setRegs v).st = s.st := rfl
@[simp] theorem State.setRegs_disp : (s.setRegs v).disp = s.disp := rfl
@[simp] theorem State.setRegs_opcode : (s.setRegs v).opcode = s.opcode := rfl
@[simp] theorem State.setRegs_flt : (s.setRegs v).flt = s.flt := rfl
@[simp] theorem State.setRegs_keys : (s.setRegs v).keys = s.keys := rfl
@[simp] theorem State.setRegs_rnd : (s.setRegs v).rnd = s.rnd := rfl
@[simp] theorem State.setRegs_inputs : (s.setRegs v).inputs = s.inputs := rfl
@[simp] theorem State.setRegs_draws : (s.setRegs v).draws = s.draws := rfl
@[simp] theorem State.setRegs_tone : (s.setRegs v).tone = s.tone := rfl
@[simp] theorem State.setRegs_outcome : (s.setRegs v).outcome = s.outcome := rfl
end setRegs

section setI
variable (s : State) (a : Word)
@[simp] theorem State.setI_mem : (s.setI a).mem = s.mem := rfl
@[simp] theorem State.setI_v : (s.setI a).v = s.v := rfl
@[simp] theorem State.setI_i : (s.setI a).i = a := rfl
@[simp] theorem State.setI_pc : (s.setI a).pc = s.pc := rfl
@[simp] theorem State.setI_stack : (s.setI a).stack = s.stack := rfl
@[simp] theorem State.setI_sp : (s.setI a).sp = s.sp := rfl
@[simp] theorem State.setI_dt : (s.setI a).dt = s.dt := rfl
@[simp] theorem State.setI_st : (s.setI a).st = s.st := rfl
@[simp] theorem State.setI_disp : (s.setI a).disp = s.disp := rfl
@[simp] theorem State.setI_opcode : (s.setI a).opcode = s.opcode := rfl
@[simp] theorem State.setI_flt : (s.setI a).flt = s.flt := rfl
@[simp] theorem State.setI_keys : (s.setI a).keys = s.keys := rfl
@[simp] theorem State.setI_rnd : (s.setI a).rnd = s.rnd := rfl
@[simp] theorem State.setI_inputs : (s.setI a).inputs = s.inputs := rfl
@[simp] theorem State.setI_draws : (s.setI a).draws = s.draws := rfl
@[simp] theorem State.setI_tone : (s.setI a).tone = s.tone := rfl
@[simp] theorem State.setI_outcome : (s.setI a).outcome = s.outcome := rfl
end setI

section setPC
variable (s : State) (a : Word)
@[simp] theorem State.setPC_mem : (s.setPC a).mem = s.mem := rfl
@[simp] theorem State.setPC_v : (s.setPC a).v = s.v := rfl
@[simp] theorem State.setPC_i : (s.setPC a).i = s.i := rfl
@[simp] theorem State.setPC_pc : (s.setPC a).pc = a := rfl
@[simp] theorem State.setPC_stack : (s.setPC a).stack = s.stack := rfl
@[simp] theorem State.setPC_sp : (s.setPC a).sp = s.sp := rfl
@[simp] theorem State.setPC_dt : (s.setPC a).dt = s.dt := rfl
@[simp] theorem State.setPC_st : (s.setPC a).st = s.st := rfl
@[simp] theorem State.setPC_disp : (s.setPC a).disp = s.disp := rfl
@[simp] theorem State.setPC_opcode : (s.setPC a).opcode = s.opcode := rfl
@[simp] theorem State.setPC_flt : (s.setPC a).flt = s.flt := rfl
@[simp] theorem State.setPC_keys : (s.setPC a).keys = s.keys := rfl
@[simp] theorem State.setPC_rnd : (s.setPC a).rnd = s.rnd := rfl
@[simp] theorem State.setPC_inputs : (s.setPC a).inputs = s.inputs := rfl
@[simp] theorem State.setPC_draws : (s.setPC a).draws = s.draws := rfl
@[simp] theorem State.setPC_tone : (s.setPC a).tone = s.tone := rfl
@[simp] theorem State.setPC_outcome : (s.setPC a).outcome = s.outcome := rfl
end setPC

section setStack
variable (s : State) (k : Vector Word 16) (p : Fin 17)
@[simp] theorem State.setStack_mem : (s.setStack k p).mem = s.mem := rfl
@[simp] theorem State.setStack_v : (s.setStack k p).v = s.v := rfl
@[simp] theorem State.setStack_i : (s.setStack k p).i = s.i := rfl
@[simp] theorem State.setStack_pc : (s.setStack k p).pc = s.pc := rfl
@[simp] theorem State.setStack_stack : (s.setStack k p).stack = k := rfl
@[simp] theorem State.setStack_sp : (s.setStack k p).sp = p := rfl
@[simp] theorem State.setStack_dt : (s.setStack k p).dt = s.dt := rfl
@[simp] theorem State.setStack_st : (s.setStack k p).st = s.st := rfl
@[simp] theorem State.setStack_disp : (s.setStack k p).disp = s.disp := rfl
@[simp] theorem State.setStack_opcode : (s.setStack k p).opcode = s.opcode := rfl
@[simp] theorem State.setStack_flt : (s.setStack k p).flt = s.flt := rfl
@[simp] theorem State.setStack_keys : (s.setStack k p).keys = s.keys := rfl
@[simp] theorem State.setStack_rnd : (s.setStack k p).rnd = s.rnd := rfl
@[simp] theorem State.setStack_inputs : (s.setStack k p).inputs = s.inputs := rfl
@[simp] theorem State.setStack_draws : (s.setStack k p).draws = s.draws := rfl
@[simp] theorem State.setStack_tone : (s.setStack k p).tone = s.tone := rfl
@[simp] theorem State.setStack_outcome : (s.setStack k p).outcome = s.outcome := rfl
end setStack

section setDT
variable (s : State) (b : Byte)
@[simp] theorem State.setDT_mem : (s.setDT b).mem = s.mem := rfl
@[simp] theorem State.setDT_v : (s.setDT b).v = s.v := rfl
@[simp] theorem State.setDT_i : (s.setDT b).i = s.i := rfl
@[simp] theorem State.setDT_pc : (s.setDT b).pc = s.pc := rfl
@[simp] theorem State.setDT_stack : (s.setDT b).stack = s.stack := rfl
@[simp] theorem State.setDT_sp : (s.setDT b).sp = s.sp := rfl
@[simp] theorem State.setDT_dt : (s.setDT b).dt = b := rfl
@[simp] theorem State.setDT_st : (s.setDT b).st = s.st := rfl
@[simp] theorem State.setDT_disp : (s.setDT b).disp = s.disp := rfl
@[simp] theorem State.setDT_opcode : (s.setDT b).opcode = s.opcode := rfl
@[simp] theorem State.setDT_flt : (s.setDT b).flt = s.flt := rfl
@[simp] theorem State.setDT_keys : (s.setDT b).keys = s.keys := rfl
@[simp] theorem State.setDT_rnd : (s.setDT b).rnd = s.rnd := rfl
@[simp] theorem State.setDT_inputs : (s.setDT b).inputs = s.inputs := rfl
@[simp] theorem State.setDT_draws : (s.setDT b).draws = s.draws := rfl
@[simp] theorem State.setDT_tone : (s.setDT b).tone = s.tone := rfl
@[simp] theorem State.setDT_outcome : (s.setDT b).outcome = s.outcome := rfl
end setDT

section setST
variable (s : State) (b : Byte)
@[simp] theorem State.setST_mem : (s.setST b).mem = s.mem := rfl
@[simp] theorem State.setST_v : (s.setST b).v = s.v := rfl
@[simp] theorem State.setST_i : (s.setST b).i = s.i := rfl
@[simp] theorem State.setST_pc : (s.setST b).pc = s.pc := rfl
@[simp] theorem State.setST_stack : (s.setST b).stack = s.stack := rfl
@[simp] theorem State.setST_sp : (s.setST b).sp = s.sp := rfl
@[simp] theorem State.setST_dt : (s.setST b).dt = s.dt := rfl
@[simp] theorem State.setST_st : (s.setST b).st = b := rfl
@[simp] theorem State.setST_disp : (s.setST b).disp = s.disp := rfl
@[simp] theorem State.setST_opcode : (s.setST b).opcode = s.opcode := rfl
@[simp] theorem State.setST_flt : (s.setST b).flt = s.flt := rfl
@[simp] theorem State.setST_keys : (s.setST b).keys = s.keys := rfl
@[simp] theorem State.setST_rnd : (s.setST b).rnd = s.rnd := rfl
@[simp] theorem State.setST_inputs : (s.setST b).inputs = s.inputs := rfl
@[simp] theorem State.setST_draws : (s.setST b).draws = s.draws := rfl
@[simp] theorem State.setST_tone : (s.setST b).tone = s.tone := rfl
@[simp] theorem State.setST_outcome : (s.setST b).outcome = s.outcome := rfl
end setST

section setDisp
variable (s : State) (d : Display)
@[simp] theorem State.setDisp_mem : (s.setDisp d).mem = s.mem := rfl
@[simp] theorem State.setDisp_v : (s.setDisp d).v = s.v := rfl
@[simp] theorem State.setDisp_i : (s.setDisp d).i = s.i := rfl
@[simp] theorem State.setDisp_pc : (s.setDisp d).pc = s.pc := rfl
@[simp] theorem State.setDisp_stack : (s.setDisp d).stack = s.stack := rfl
@[simp] theorem State.setDisp_sp : (s.setDisp d).sp = s.sp := rfl
@[simp] theorem State.setDisp_dt : (s.setDisp d).dt = s.dt := rfl
@[simp] theorem State.setDisp_st : (s.setDisp d).st = s.st := rfl
@[simp] theorem State.setDisp_disp : (s.setDisp d).disp = d := rfl
@[simp] theorem State.setDisp_opcode : (s.setDisp d).opcode = s.opcode := rfl
@[simp] theorem State.setDisp_flt : (s.setDisp d).flt = s.flt := rfl
@[simp] theorem State.setDisp_keys : (s.setDisp d).keys = s.keys := rfl
@[simp] theorem State.setDisp_rnd : (s.setDisp d).rnd = s.rnd := rfl
@[simp] theorem State.setDisp_inputs : (s.setDisp d).inputs = s.inputs := rfl
@[simp] theorem State.setDisp_draws : (s.setDisp d).draws = s.draws := rfl
@[simp] theorem State.setDisp_tone : (s.setDisp d).tone = s.tone := rfl
@[simp] theorem State.setDisp_outcome : (s.setDisp d).outcome = s.outcome := rfl
end setDisp

section setOpcode
variable (s : State) (w : Word)
@[simp] theorem State.setOpcode_mem : (s.setOpcode w).mem = s.mem := rfl
@[simp] theorem State.setOpcode_v : (s.setOpcode w).v = s.v := rfl
@[simp] theorem State.setOpcode_i : (s.setOpcode w).i = s.i := rfl
@[simp] theorem State.setOpcode_pc : (s.setOpcode w).pc = s.pc := rfl
@[simp] theorem State.setOpcode_stack : (s.setOpcode w).stack = s.stack := rfl
@[simp] theorem State.setOpcode_sp : (s.setOpcode w).sp = s.sp := rfl
@[simp] theorem State.setOpcode_dt : (s.setOpcode w).dt = s.dt := rfl
@[simp] theorem State.setOpcode_st : (s.setOpcode w).st = s.st := rfl
@[simp] theorem State.setOpcode_disp : (s.setOpcode w).disp = s.disp := rfl
@[simp] theorem State.setOpcode_opcode : (s.setOpcode w).opcode = w := rfl
@[simp] theorem State.setOpcode_flt : (s.setOpcode w).flt = s.flt := rfl
@[simp] theorem State.setOpcode_keys : (s.setOpcode w).keys = s.keys := rfl
@[simp] theorem State.setOpcode_rnd : (s.setOpcode w).rnd = s.rnd := rfl
@[simp] theorem State.setOpcode_inputs : (s.setOpcode w).inputs = s.inputs := rfl
@[simp] theorem State.setOpcode_draws : (s.setOpcode w).draws = s.draws := rfl
@[simp] theorem State.setOpcode_tone : (s.setOpcode w).tone = s.tone := rfl
@[simp] theorem State.setOpcode_outcome : (s.setOpcode w).outcome = s.outcome := rfl
end setOpcode

section setFault
variable (s : State) (f : Option FaultCause) (r : StepReport)
@[simp] theorem State.setFault_mem : (s.setFault f r).mem = s.mem := rfl
@[simp] theorem State.setFault_v : (s.setFault f r).v = s.v := rfl
@[simp] theorem State.setFault_i : (s.setFault f r).i = s.i := rfl
@[simp] theorem State.setFault_pc : (s.setFault f r).pc = s.pc := rfl
@[simp] theorem State.setFault_stack : (s.setFault f r).stack = s.stack := rfl
@[simp] theorem State.setFault_sp : (s.setFault f r).sp = s.sp := rfl
@[simp] theorem State.setFault_dt : (s.setFault f r).dt = s.dt := rfl
@[simp] theorem State.setFault_st : (s.setFault f r).st = s.st := rfl
@[simp] theorem State.setFault_disp : (s.setFault f r).disp = s.disp := rfl
@[simp] theorem State.setFault_opcode : (s.setFault f r).opcode = s.opcode := rfl
@[simp] theorem State.setFault_flt : (s.setFault f r).flt = f := rfl
@[simp] theorem State.setFault_keys : (s.setFault f r).keys = s.keys := rfl
@[simp] theorem State.setFault_rnd : (s.setFault f r).rnd = s.rnd := rfl
@[simp] theorem State.setFault_inputs : (s.setFault f r).inputs = s.inputs := rfl
@[simp] theorem State.setFault_draws : (s.setFault f r).draws = s.draws := rfl
@[simp] theorem State.setFault_tone : (s.setFault f r).tone = s.tone := rfl
@[simp] theorem State.setFault_outcome : (s.setFault f r).outcome = r := rfl
end setFault

section setSample
variable (s : State) (k : BitVec 16) (b : Byte)
@[simp] theorem State.setSample_mem : (s.setSample k b).mem = s.mem := rfl
@[simp] theorem State.setSample_v : (s.setSample k b).v = s.v := rfl
@[simp] theorem State.setSample_i : (s.setSample k b).i = s.i := rfl
@[simp] theorem State.setSample_pc : (s.setSample k b).pc = s.pc := rfl
@[simp] theorem State.setSample_stack : (s.setSample k b).stack = s.stack := rfl
@[simp] theorem State.setSample_sp : (s.setSample k b).sp = s.sp := rfl
@[simp] theorem State.setSample_dt : (s.setSample k b).dt = s.dt := rfl
@[simp] theorem State.setSample_st : (s.setSample k b).st = s.st := rfl
@[simp] theorem State.setSample_disp : (s.setSample k b).disp = s.disp := rfl
@[simp] theorem State.setSample_opcode : (s.setSample k b).opcode = s.opcode := rfl
@[simp] theorem State.setSample_flt : (s.setSample k b).flt = s.flt := rfl
@[simp] theorem State.setSample_keys : (s.setSample k b).keys = k := rfl
@[simp] theorem State.setSample_rnd : (s.setSample k b).rnd = b := rfl
@[simp] theorem State.setSample_inputs : (s.setSample k b).inputs = s.inputs := rfl
@[simp] theorem State.setSample_draws : (s.setSample k b).draws = s.draws := rfl
@[simp] theorem State.setSample_tone : (s.setSample k b).tone = s.tone := rfl
@[simp] theorem State.setSample_outcome : (s.setSample k b).outcome = s.outcome := rfl
end setSample

section setInputs
variable (s : State) (l : List StepInput) (n : Nat)
@[simp] theorem State.setInputs_mem : (s.setInputs l n).mem = s.mem := rfl
@[simp] theorem State.setInputs_v : (s.setInputs l n).v = s.v := rfl
@[simp] theorem State.setInputs_i : (s.setInputs l n).i = s.i := rfl
@[simp] theorem State.setInputs_pc : (s.setInputs l n).pc = s.pc := rfl
@[simp] theorem State.setInputs_stack : (s.setInputs l n).stack = s.stack := rfl
@[simp] theorem State.setInputs_sp : (s.setInputs l n).sp = s.sp := rfl
@[simp] theorem State.setInputs_dt : (s.setInputs l n).dt = s.dt := rfl
@[simp] theorem State.setInputs_st : (s.setInputs l n).st = s.st := rfl
@[simp] theorem State.setInputs_disp : (s.setInputs l n).disp = s.disp := rfl
@[simp] theorem State.setInputs_opcode : (s.setInputs l n).opcode = s.opcode := rfl
@[simp] theorem State.setInputs_flt : (s.setInputs l n).flt = s.flt := rfl
@[simp] theorem State.setInputs_keys : (s.setInputs l n).keys = s.keys := rfl
@[simp] theorem State.setInputs_rnd : (s.setInputs l n).rnd = s.rnd := rfl
@[simp] theorem State.setInputs_inputs : (s.setInputs l n).inputs = l := rfl
@[simp] theorem State.setInputs_draws : (s.setInputs l n).draws = n := rfl
@[simp] theorem State.setInputs_tone : (s.setInputs l n).tone = s.tone := rfl
@[simp] theorem State.setInputs_outcome : (s.setInputs l n).outcome = s.outcome := rfl
end setInputs

section setTone
variable (s : State) (o : Option Byte)
@[simp] theorem State.setTone_mem : (s.setTone o).mem = s.mem := rfl
@[simp] theorem State.setTone_v : (s.setTone o).v = s.v := rfl
@[simp] theorem State.setTone_i : (s.setTone o).i = s.i := rfl
@[simp] theorem State.setTone_pc : (s.setTone o).pc = s.pc := rfl
@[simp] theorem State.setTone_stack : (s.setTone o).stack = s.stack := rfl
@[simp] theorem State.setTone_sp : (s.setTone o).sp = s.sp := rfl
@[simp] theorem State.setTone_dt : (s.setTone o).dt = s.dt := rfl
@[simp] theorem State.setTone_st : (s.setTone o).st = s.st := rfl
@[simp] theorem State.setTone_disp : (s.setTone o).disp = s.disp := rfl
@[simp] theorem State.setTone_opcode : (s.setTone o).opcode = s.opcode := rfl
@[simp] theorem State.setTone_flt : (s.setTone o).flt = s.flt := rfl
@[simp] theorem State.setTone_keys : (s.setTone o).keys = s.keys := rfl
@[simp] theorem State.setTone_rnd : (s.setTone o).rnd = s.rnd := rfl
@[simp] theorem State.setTone_inputs : (s.setTone o).inputs = s.inputs := rfl
@[simp] theorem State.setTone_draws : (s.setTone o).draws = s.draws := rfl
@[simp] theorem State.setTone_tone : (s.setTone o).tone = o := rfl
@[simp] theorem State.setTone_outcome : (s.setTone o).outcome = s.outcome := rfl
end setTone

section setOutcome
variable (s : State) (r : StepReport)
@[simp] theorem State.setOutcome_mem : (s.setOutcome r).mem = s.mem := rfl
@[simp] theorem State.setOutcome_v : (s.setOutcome r).v = s.v := rfl
@[simp] theorem State.setOutcome_i : (s.setOutcome r).i = s.i := rfl
@[simp] theorem State.setOutcome_pc : (s.setOutcome r).pc = s.pc := rfl
@[simp] theorem State.setOutcome_stack : (s.setOutcome r).stack = s.stack := rfl
@[simp] theorem State.setOutcome_sp : (s.setOutcome r).sp = s.sp := rfl
@[simp] theorem State.setOutcome_dt : (s.setOutcome r).dt = s.dt := rfl
@[simp] theorem State.setOutcome_st : (s.setOutcome r).st = s.st := rfl
@[simp] theorem State.setOutcome_disp : (s.setOutcome r).disp = s.disp := rfl
@[simp] theorem State.setOutcome_opcode : (s.setOutcome r).opcode = s.opcode := rfl
@[simp] theorem State.setOutcome_flt : (s.setOutcome r).flt = s.flt := rfl
@[simp] theorem State.setOutcome_keys : (s.setOutcome r).keys = s.keys := rfl
@[simp] theorem State.setOutcome_rnd : (s.setOutcome r).rnd = s.rnd := rfl
@[simp] theorem State.setOutcome_inputs : (s.setOutcome r).inputs = s.inputs := rfl
@[simp] theorem State.setOutcome_draws : (s.setOutcome r).draws = s.draws := rfl
@[simp] theorem State.setOutcome_tone : (s.setOutcome r).tone = s.tone := rfl
@[simp] theorem State.setOutcome_outcome : (s.setOutcome r).outcome = r := rfl
end setOutcome

section writeV
variable (s : State) (r : Reg) (b : Byte)
@[simp] theorem State.writeV_mem : (s.writeV r b).mem = s.mem := rfl
@[simp] theorem State.writeV_i : (s.writeV r b).i = s.i := rfl
@[simp] theorem State.writeV_pc : (s.writeV r b).pc = s.pc := rfl
@[simp] theorem State.writeV_stack : (s.writeV r b).stack = s.stack := rfl
@[simp] theorem State.writeV_sp : (s.writeV r b).sp = s.sp := rfl
@[simp] theorem State.writeV_dt : (s.writeV r b).dt = s.dt := rfl
@[simp] theorem State.writeV_st : (s.writeV r b).st = s.st := rfl
@[simp] theorem State.writeV_disp : (s.writeV r b).disp = s.disp := rfl
@[simp] theorem State.writeV_opcode : (s.writeV r b).opcode = s.opcode := rfl
@[simp] theorem State.writeV_flt : (s.writeV r b).flt = s.flt := rfl
@[simp] theorem State.writeV_keys : (s.writeV r b).keys = s.keys := rfl
@[simp] theorem State.writeV_rnd : (s.writeV r b).rnd = s.rnd := rfl
@[simp] theorem State.writeV_inputs : (s.writeV r b).inputs = s.inputs := rfl
@[simp] theorem State.writeV_draws : (s.writeV r b).draws = s.draws := rfl
@[simp] theorem State.writeV_tone : (s.writeV r b).tone = s.tone := rfl
@[simp] theorem State.writeV_outcome : (s.writeV r b).outcome = s.outcome := rfl
end writeV

section writeFlag
variable (s : State) (c : Bool)
@[simp] theorem State.writeFlag_mem : (s.writeFlag c).mem = s.mem := rfl
@[simp] theorem State.writeFlag_i : (s.writeFlag c).i = s.i := rfl
@[simp] theorem State.writeFlag_pc : (s.writeFlag c).pc = s.pc := rfl
@[simp] theorem State.writeFlag_stack : (s.writeFlag c).stack = s.stack := rfl
@[simp] theorem State.writeFlag_sp : (s.writeFlag c).sp = s.sp := rfl
@[simp] theorem State.writeFlag_dt : (s.writeFlag c).dt = s.dt := rfl
@[simp] theorem State.writeFlag_st : (s.writeFlag c).st = s.st := rfl
@[simp] theorem State.writeFlag_disp : (s.writeFlag c).disp = s.disp := rfl
@[simp] theorem State.writeFlag_opcode : (s.writeFlag c).opcode = s.opcode := rfl
@[simp] theorem State.writeFlag_flt : (s.writeFlag c).flt = s.flt := rfl
@[simp] theorem State.writeFlag_keys : (s.writeFlag c).keys = s.keys := rfl
@[simp] theorem State.writeFlag_rnd : (s.writeFlag c).rnd = s.rnd := rfl
@[simp] theorem State.writeFlag_inputs : (s.writeFlag c).inputs = s.inputs := rfl
@[simp] theorem State.writeFlag_draws : (s.writeFlag c).draws = s.draws := rfl
@[simp] theorem State.writeFlag_tone : (s.writeFlag c).tone = s.tone := rfl
@[simp] theorem State.writeFlag_outcome : (s.writeFlag c).outcome = s.outcome := rfl
end writeFlag

section memWrite
variable (s : State) (a : Nat) (b : Byte)
@[simp] theorem State.memWrite_v : (s.memWrite a b).v = s.v := rfl
@[simp] theorem State.memWrite_i : (s.memWrite a b).i = s.i := rfl
@[simp] theorem State.memWrite_pc : (s.memWrite a b).pc = s.pc := rfl
@[simp] theorem State.memWrite_stack : (s.memWrite a b).stack = s.stack := rfl
@[simp] theorem State.memWrite_sp : (s.memWrite a b).sp = s.sp := rfl
@[simp] theorem State.memWrite_dt : (s.memWrite a b).dt = s.dt := rfl
@[simp] theorem State.memWrite_st : (s.memWrite a b).st = s.st := rfl
@[simp] theorem State.memWrite_disp : (s.memWrite a b).disp = s.disp := rfl
@[simp] theorem State.memWrite_opcode : (s.memWrite a b).opcode = s.opcode := rfl
@[simp] theorem State.memWrite_flt : (s.memWrite a b).flt = s.flt := rfl
@[simp] theorem State.memWrite_keys : (s.memWrite a b).keys = s.keys := rfl
@[simp] theorem State.memWrite_rnd : (s.memWrite a b).rnd = s.rnd := rfl
@[simp] theorem State.memWrite_inputs : (s.memWrite a b).inputs = s.inputs := rfl
@[simp] theorem State.memWrite_draws : (s.memWrite a b).draws = s.draws := rfl
@[simp] theorem State.memWrite_tone : (s.memWrite a b).tone = s.tone := rfl
@[simp] theorem State.memWrite_outcome : (s.memWrite a b).outcome = s.outcome := rfl
end memWrite

section advance
variable (s : State)
@[simp] theorem State.advance_mem : (s.advance).mem = s.mem := rfl
@[simp] theorem State.advance_v : (s.advance).v = s.v := rfl
@[simp] theorem State.advance_i : (s.advance).i = s.i := rfl
@[simp] theorem State.advance_stack : (s.advance).stack = s.stack := rfl
@[simp] theorem State.advance_sp : (s.advance).sp = s.sp := rfl
@[simp] theorem State.advance_dt : (s.advance).dt = s.dt := rfl
@[simp] theorem State.advance_st : (s.advance).st = s.st := rfl
@[simp] theorem State.advance_disp : (s.advance).disp = s.disp := rfl
@[simp] theorem State.advance_opcode : (s.advance).opcode = s.opcode := rfl
@[simp] theorem State.advance_flt : (s.advance).flt = s.flt := rfl
@[simp] theorem State.advance_keys : (s.advance).keys = s.keys := rfl
@[simp] theorem State.advance_rnd : (s.advance).rnd = s.rnd := rfl
@[simp] theorem State.advance_inputs : (s.advance).inputs = s.inputs := rfl
@[simp] theorem State.advance_draws : (s.advance).draws = s.draws := rfl
@[simp] theorem State.advance_tone : (s.advance).tone = s.tone := rfl
@[simp] theorem State.advance_outcome : (s.advance).outcome = s.outcome := rfl
end advance

section backUp
variable (s : State)
@[simp] theorem State.backUp_mem : (s.backUp).mem = s.mem := rfl
@[simp] theorem State.backUp_v : (s.backUp).v = s.v := rfl
@[simp] theorem State.backUp_i : (s.backUp).i = s.i := rfl
@[simp] theorem State.backUp_stack : (s.backUp).stack = s.stack := rfl
@[simp] theorem State.backUp_sp : (s.backUp).sp = s.sp := rfl
@[simp] theorem State.backUp_dt : (s.backUp).dt = s.dt := rfl
@[simp] theorem State.backUp_st : (s.backUp).st = s.st := rfl
@[simp] theorem State.backUp_disp : (s.backUp).disp = s.disp := rfl
@[simp] theorem State.backUp_opcode : (s.backUp).opcode = s.opcode := rfl
@[simp] theorem State.backUp_flt : (s.backUp).flt = s.flt := rfl
@[simp] theorem State.backUp_keys : (s.backUp).keys = s.keys := rfl
@[simp] theorem State.backUp_rnd : (s.backUp).rnd = s.rnd := rfl
@[simp] theorem State.backUp_inputs : (s.backUp).inputs = s.inputs := rfl
@[simp] theorem State.backUp_draws : (s.backUp).draws = s.draws := rfl
@[simp] theorem State.backUp_tone : (s.backUp).tone = s.tone := rfl
@[simp] theorem State.backUp_outcome : (s.backUp).outcome = s.outcome := rfl
end backUp

section raise
variable (s : State) (c : FaultCause)
@[simp] theorem State.raise_mem : (s.raise c).mem = s.mem := rfl
@[simp] theorem State.raise_v : (s.raise c).v = s.v := rfl
@[simp] theorem State.raise_i : (s.raise c).i = s.i := rfl
@[simp] theorem State.raise_pc : (s.raise c).pc = s.pc := rfl
@[simp] theorem State.raise_stack : (s.raise c).stack = s.stack := rfl
@[simp] theorem State.raise_sp : (s.raise c).sp = s.sp := rfl
@[simp] theorem State.raise_dt : (s.raise c).dt = s.dt := rfl
@[simp] theorem State.raise_st : (s.raise c).st = s.st := rfl
@[simp] theorem State.raise_disp : (s.raise c).disp = s.disp := rfl
@[simp] theorem State.raise_opcode : (s.raise c).opcode = s.opcode := rfl
@[simp] theorem State.raise_keys : (s.raise c).keys = s.keys := rfl
@[simp] theorem State.raise_rnd : (s.raise c).rnd = s.rnd := rfl
@[simp] theorem State.raise_inputs : (s.raise c).inputs = s.inputs := rfl
@[simp] theorem State.raise_draws : (s.raise c).draws = s.draws := rfl
@[simp] theorem State.raise_tone : (s.raise c).tone = s.tone := rfl
end raise

section fetch
variable (s : State)
@[simp] theorem State.fetch_mem : (s.fetch).mem = s.mem := rfl
@[simp] theorem State.fetch_v : (s.fetch).v = s.v := rfl
@[simp] theorem State.fetch_i : (s.fetch).i = s.i := rfl
@[simp] theorem State.fetch_pc : (s.fetch).pc = s.pc := rfl
@[simp] theorem State.fetch_stack : (s.fetch).stack = s.stack := rfl
@[simp] theorem State.fetch_sp : (s.fetch).sp = s.sp := rfl
@[simp] theorem State.fetch_dt : (s.fetch).dt = s.dt := rfl
@[simp] theorem State.fetch_st : (s.fetch).st = s.st := rfl
@[simp] theorem State.fetch_disp : (s.fetch).disp = s.disp := rfl
@[simp] theorem State.fetch_flt : (s.fetch).flt = s.flt := rfl
@[simp] theorem State.fetch_keys : (s.fetch).keys = s.keys := rfl
@[simp] theorem State.fetch_rnd : (s.fetch).rnd = s.rnd := rfl
@[simp] theorem State.fetch_inputs : (s.fetch).inputs = s.inputs := rfl
@[simp] theorem State.fetch_draws : (s.fetch).draws = s.draws := rfl
@[simp] theorem State.fetch_tone : (s.fetch).tone = s.tone := rfl
@[simp] theorem State.fetch_outcome : (s.fetch).outcome = s.outcome := rfl
end fetch

section sampleInputs
variable (s : State)
@[simp] theorem State.sampleInputs_mem : (s.sampleInputs).mem = s.mem := rfl
@[simp] theorem State.sampleInputs_v : (s.sampleInputs).v = s.v := rfl
@[simp] theorem State.sampleInputs_i : (s.sampleInputs).i = s.i := rfl
@[simp] theorem State.sampleInputs_pc : (s.sampleInputs).pc = s.pc := rfl
@[simp] theorem State.sampleInputs_stack : (s.sampleInputs).stack = s.stack := rfl
@[simp] theorem State.sampleInputs_sp : (s.sampleInputs).sp = s.sp := rfl
@[simp] theorem State.sampleInputs_dt : (s.sampleInputs).dt = s.dt := rfl
@[simp] theorem State.sampleInputs_st : (s.sampleInputs).st = s.st := rfl
@[simp] theorem State.sampleInputs_disp : (s.sampleInputs).disp = s.disp := rfl
@[simp] theorem State.sampleInputs_opcode : (s.sampleInputs).opcode = s.opcode := rfl
@[simp] theorem State.sampleInputs_flt : (s.sampleInputs).flt = s.flt := rfl
@[simp] theorem State.sampleInputs_tone : (s.sampleInputs).tone = s.tone := rfl
@[simp] theorem State.sampleInputs_outcome : (s.sampleInputs).outcome = s.outcome := rfl
end sampleInputs

end Sys2Proof.Machine
end

