-- ==== Sys2Proof/Laws/Ops.lean ====
section
/-! SUPPORT. For each shared operation, what it does, once: callers cite these and do not unfold the operation. -/

namespace Sys2Proof.Machine

/-! ## Registers -/

/-- All a register write does to the registers. -/
theorem State.readV_writeV (s : State) (r q : Reg) (b : Byte) :
    (s.writeV r b).readV q = if q = r then b else s.readV q := by
  by_cases h : q = r
  · subst h; simp [State.readV, State.writeV]
  · have : r.val ≠ q.val := fun e => h (Fin.ext e.symm)
    simp [State.readV, State.writeV, h, this]

@[simp] theorem State.readV_writeV_same (s : State) (r : Reg) (b : Byte) : (s.writeV r b).readV r = b := by
  simp [State.readV_writeV]

theorem State.readV_writeV_ne (s : State) {r q : Reg} (b : Byte) (h : q ≠ r) :
    (s.writeV r b).readV q = s.readV q := by
  simp [State.readV_writeV, h]

/-- A flag write is a write of VF. -/
theorem State.readV_writeFlag (s : State) (c : Bool) (q : Reg) :
    (s.writeFlag c).readV q = if q = Reg.vf then flagByte c else s.readV q :=
  s.readV_writeV Reg.vf q (flagByte c)

/-- A read of a register depends on the register file alone. -/
theorem State.readV_congr {s t : State} (h : t.v = s.v) (r : Reg) : t.readV r = s.readV r := by
  simp [State.readV, h]

/-! ## Memory -/

theorem memIndex_lt (a : Nat) : memIndex a < 4096 := Nat.mod_lt _ (by decide)

@[simp] theorem memIndex_memIndex (a : Nat) : memIndex (memIndex a) = memIndex a := Nat.mod_mod _ _

/-- A read of memory depends on the memory alone, and on the address modulo 4096 alone. -/
theorem State.memRead1_congr {s t : State} (h : t.mem = s.mem) {a b : Nat} (hab : memIndex a = memIndex b) :
    t.memRead1 a = s.memRead1 b := by
  simp [State.memRead1, h, hab]

/-- All a one-byte write does to memory. -/
theorem State.memRead1_memWrite (s : State) (a b : Nat) (v : Byte) :
    (s.memWrite a v).memRead1 b = if memIndex b = memIndex a then v else s.memRead1 b := by
  simp [State.memRead1, State.memWrite, Memory.get_set]

theorem State.memWrite_wf (s : State) (a : Nat) (v : Byte) (h : s.mem.wf = true) :
    (s.memWrite a v).mem.wf = true :=
  Memory.wf_set _ _ _ (memIndex_lt a) h

/-- The consecutive writes are one update of memory alone. -/
theorem State.memWriteAll_eq (s : State) (a : Nat) (bs : List Byte) :
    s.memWriteAll a bs = s.setMem (s.memWriteAll a bs).mem := by
  induction bs generalizing s a with
  | nil => rfl
  | cons b bs ih => rw [State.memWriteAll, ih]; simp [State.memWrite, State.setMem]

theorem State.memWriteAll_wf (s : State) (a : Nat) (bs : List Byte) (h : s.mem.wf = true) :
    (s.memWriteAll a bs).mem.wf = true := by
  induction bs generalizing s a with
  | nil => exact h
  | cons b bs ih => exact ih _ _ (s.memWrite_wf a b h)

/-- A byte at none of the written addresses reads as before. -/
theorem State.memRead1_memWriteAll_outside (s : State) (a : Nat) (bs : List Byte) (c : Nat)
    (h : ∀ j < bs.length, memIndex c ≠ memIndex (a + j)) : (s.memWriteAll a bs).memRead1 c = s.memRead1 c := by
  induction bs generalizing s a with
  | nil => rfl
  | cons b bs ih =>
    have h0 : memIndex c ≠ memIndex a := h 0 (by simp)
    have hs : ∀ j < bs.length, memIndex c ≠ memIndex (a + 1 + j) := fun j hj => by
      have := h (j + 1) (by simpa using hj)
      rwa [show a + (j + 1) = a + 1 + j by omega] at this
    rw [State.memWriteAll, ih _ _ hs, State.memRead1_memWrite, if_neg h0]

/-- The j-th of at most 4096 consecutive bytes is stored at its address: no later one lands on it. -/
theorem State.memRead1_memWriteAll_inside (s : State) (a : Nat) (bs : List Byte) (hlen : bs.length ≤ 4096) (j : Nat)
    (hj : j < bs.length) : (s.memWriteAll a bs).memRead1 (a + j) = bs[j] := by
  induction bs generalizing s a j with
  | nil => simp at hj
  | cons b bs ih =>
    simp only [List.length_cons] at hlen hj
    cases j with
    | zero =>
      have hout : ∀ k < bs.length, memIndex a ≠ memIndex (a + 1 + k) := by
        intro k hk
        simp only [memIndex, Config.memSize]
        omega
      rw [Nat.add_zero, State.memWriteAll, State.memRead1_memWriteAll_outside _ _ _ _ hout, State.memRead1_memWrite]
      simp
    | succ j =>
      have := ih (s.memWrite a b) (a + 1) (by omega) j (by omega)
      rw [State.memWriteAll, show a + (j + 1) = a + 1 + j by omega, this]
      simp

@[simp] theorem memIndex_ea (s : State) (k : Nat) : memIndex (s.ea k) = s.ea k := memIndex_memIndex _

/-! ## The program counter -/

@[simp] theorem State.advance_pc (s : State) : s.advance.pc = s.pc + 2#16 := rfl

@[simp] theorem State.backUp_pc (s : State) : s.backUp.pc = s.pc - 2#16 := rfl

/-- A skip is a change of `PC` alone. -/
theorem State.skipIf_eq (s : State) (c : Bool) : s.skipIf c = s.setPC (if c then s.pc + 2#16 else s.pc) := by
  cases c <;> rfl

/-! ## The call stack -/

/-- A push either finds the stack full or stores at `STACK[SP]` and counts it. -/
theorem State.push_cases (s : State) (a : Word) :
    (s.sp.val = 16 ∧ s.push a = none) ∨
    ∃ h : s.sp.val < 16, s.push a = some (s.setStack (s.stack.set s.sp.val a h) ⟨s.sp.val + 1, Nat.succ_lt_succ h⟩) := by
  by_cases h : s.sp.val < 16
  · exact .inr ⟨h, dif_pos h⟩
  · exact .inl ⟨by have := s.sp.isLt; omega, dif_neg h⟩

/-- A pop either finds the stack empty or gives the last entry and discounts it. -/
theorem State.pop_cases (s : State) :
    (s.sp.val = 0 ∧ s.pop = none) ∨
    ∃ (_ : 0 < s.sp.val) (h : s.sp.val - 1 < 16) (h' : s.sp.val - 1 < 17),
      s.pop = some (s.stack[s.sp.val - 1], s.setStack s.stack ⟨s.sp.val - 1, h'⟩) := by
  by_cases h : 0 < s.sp.val
  · exact .inr ⟨h, by have := s.sp.isLt; omega, by have := s.sp.isLt; omega, if_pos h⟩
  · exact .inl ⟨by omega, if_neg h⟩

/-! ## Taking a fault -/

/-- All a raise does: the latch and the report. -/
theorem State.raise_eq (s : State) (c : FaultCause) :
    s.raise c = s.setFault (latchFault s.flt c) (.fault c (s.pc - 2#16) s.opcode) := rfl

@[simp] theorem latchFault_ne_none (f : Option FaultCause) (c : FaultCause) : latchFault f c ≠ none := by
  cases f <;> simp [latchFault]

@[simp] theorem latchFault_some (d c : FaultCause) : latchFault (some d) c = some d := rfl

@[simp] theorem latchFault_none (c : FaultCause) : latchFault none c = some c := rfl

/-! ## The phases of a step -/

/-- What the execute phase starts from. -/
theorem State.begin_eq (s : State) : s.begin =
    { s with keys := s.nextInput.keys, rnd := s.nextInput.rnd, inputs := s.inputs.tail, draws := s.draws + 1,
             outcome := .ok, opcode := s.memRead1 s.pc.toNat ++ s.memRead1 (s.pc.toNat + 1), pc := s.pc + 2#16 } := rfl

/-- The timer phase writes `DT`, `ST` and `TONE` and nothing else. -/
theorem State.timerPhase_eq (s : State) : s.timerPhase =
    { s with dt := if s.dt = 0#8 then 0#8 else s.dt - 1#8, st := 0#8,
             tone := if s.st = 0#8 then none else some s.st } := by
  obtain ⟨dt, hdt⟩ : ∃ d, s.dt = d := ⟨_, rfl⟩
  obtain ⟨st, hst⟩ : ∃ d, s.st = d := ⟨_, rfl⟩
  by_cases h1 : dt = 0#8 <;> by_cases h2 : st = 0#8 <;> subst dt st <;>
    simp [State.timerPhase, State.tickDelay, State.tickSound, h1, h2, State.setDT, State.setTone, State.setST]

/-! ## Operands -/

theorem mem_regsUpTo (x k : Reg) : k ∈ regsUpTo x ↔ k ≤ x := by
  revert x k; decide

theorem regsUpTo_nodup (x : Reg) : (regsUpTo x).Nodup := by
  revert x; decide

@[simp] theorem length_regsUpTo (x : Reg) : (regsUpTo x).length = x.val + 1 := by
  revert x; decide

theorem getElem_regsUpTo (x : Reg) (j : Nat) (hj : j < (regsUpTo x).length) :
    (regsUpTo x)[j] = ⟨j, by have := x.isLt; simp at hj; omega⟩ := by
  simp [regsUpTo]

/-- The scan finds the least pressed key, or none is pressed. -/
theorem State.firstKey_cases (s : State) :
    (s.firstKey = none ∧ s.keys = 0#16) ∨
    ∃ k, s.firstKey = some k ∧ k < 16 ∧ s.keys.getLsbD k = true ∧ ∀ j < k, s.keys.getLsbD j = false := by
  rcases h : s.firstKey with _ | k
  · refine .inl ⟨rfl, BitVec.eq_of_getLsbD_eq fun i hi => ?_⟩
    have := List.find?_eq_none.mp h i (by simpa using hi)
    simpa [State.keyPressed] using this
  · refine .inr ⟨k, rfl, ?_⟩
    obtain ⟨hk, as, bs, hsplit, hbefore⟩ := List.find?_eq_some_iff_append.mp h
    have hlen : as.length < 16 := by
      have := congrArg List.length hsplit
      simp at this; omega
    have hget : ∀ j, j < as.length + 1 → (List.range 16)[j]? = (as ++ k :: bs)[j]? := fun j _ => by rw [hsplit]
    have hk' : k = as.length := by
      have := hget as.length (by omega)
      simp [hlen] at this
      exact this.symm
    refine ⟨by omega, hk, fun j hj => ?_⟩
    have hjas : j ∈ as := by
      have := hget j (by omega)
      rw [List.getElem?_append_left (by omega)] at this
      have hj16 : j < 16 := by omega
      simp [hj16] at this
      exact List.mem_of_getElem? this.symm
    simpa [State.keyPressed] using hbefore j hjas

end Sys2Proof.Machine
end

