-- ==== Sys2Proof/Laws/Frames.lean ====
section
/-! SUPPORT. Frames: how the words of the claims compose, and which part each update may change. -/

namespace Sys2Proof.Machine

/-! ## The words of the claims -/

/-- A difference in the listed parts only is one in any longer list only. -/
theorem KeepsExcept.mono {ps qs : List Part} {s t : State} (h : KeepsExcept ps s t) (hsub : ∀ p ∈ ps, p ∈ qs) :
    KeepsExcept qs s t :=
  fun p hp => h p fun hm => hp (hsub p hm)

theorem KeepsExcept.refl (ps : List Part) (s : State) : KeepsExcept ps s s := by
  intro p _
  cases p <;> simp [Agree]

theorem KeepsExcept.trans {ps : List Part} {s t u : State} (h : KeepsExcept ps s t) (h' : KeepsExcept ps t u) :
    KeepsExcept ps s u := by
  intro p hp
  have a := h p hp
  have b := h' p hp
  cases p <;> simp_all [Agree]

/-! ## One frame per update -/

theorem keepsExcept_setMem (s : State) (m : Memory) : KeepsExcept [.mem] s (s.setMem m) := by
  intro p hp
  cases p <;> first | (exfalso; revert hp; decide) | simp [Agree, State.readV, State.cell]

theorem keepsExcept_setRegs (s : State) (v : Vector Byte 16) : KeepsExcept [.regs] s (s.setRegs v) := by
  intro p hp
  cases p <;> first | (exfalso; revert hp; decide) | simp [Agree, State.memRead1, State.cell]

theorem keepsExcept_setI (s : State) (a : Word) : KeepsExcept [.i] s (s.setI a) := by
  intro p hp
  cases p <;> first | (exfalso; revert hp; decide) | simp [Agree, State.memRead1, State.readV, State.cell]

theorem keepsExcept_setPC (s : State) (a : Word) : KeepsExcept [.pc] s (s.setPC a) := by
  intro p hp
  cases p <;> first | (exfalso; revert hp; decide) | simp [Agree, State.memRead1, State.readV, State.cell]

theorem keepsExcept_setStack (s : State) (k : Vector Word 16) (p : Fin 17) : KeepsExcept [.stack] s (s.setStack k p) := by
  intro p hp
  cases p <;> first | (exfalso; revert hp; decide) | simp [Agree, State.memRead1, State.readV, State.cell]

theorem keepsExcept_setDT (s : State) (b : Byte) : KeepsExcept [.dt] s (s.setDT b) := by
  intro p hp
  cases p <;> first | (exfalso; revert hp; decide) | simp [Agree, State.memRead1, State.readV, State.cell]

theorem keepsExcept_setST (s : State) (b : Byte) : KeepsExcept [.st] s (s.setST b) := by
  intro p hp
  cases p <;> first | (exfalso; revert hp; decide) | simp [Agree, State.memRead1, State.readV, State.cell]

theorem keepsExcept_setDisp (s : State) (d : Display) : KeepsExcept [.disp] s (s.setDisp d) := by
  intro p hp
  cases p <;> first | (exfalso; revert hp; decide) | simp [Agree, State.memRead1, State.readV]

theorem keepsExcept_writeV (s : State) (r : Reg) (b : Byte) : KeepsExcept [.regs] s (s.writeV r b) :=
  keepsExcept_setRegs s _

theorem keepsExcept_writeFlag (s : State) (c : Bool) : KeepsExcept [.regs] s (s.writeFlag c) :=
  keepsExcept_setRegs s _

theorem keepsExcept_memWriteAll (s : State) (a : Nat) (bs : List Byte) :
    KeepsExcept [.mem] s (s.memWriteAll a bs) := by
  rw [State.memWriteAll_eq]
  exact keepsExcept_setMem s _

theorem keepsExcept_skipIf (s : State) (c : Bool) : KeepsExcept [.pc] s (s.skipIf c) := by
  rw [State.skipIf_eq]
  exact keepsExcept_setPC s _

theorem keepsExcept_raise (s : State) (c : FaultCause) : KeepsExcept [.flt, .outcome] s (s.raise c) := by
  intro p hp
  cases p <;> first | (exfalso; revert hp; decide) | simp [Agree, State.memRead1, State.readV, State.cell]

theorem keepsExcept_timerPhase (s : State) : KeepsExcept [.dt, .st, .tone] s s.timerPhase := by
  rw [State.timerPhase_eq]
  intro p hp
  cases p <;> first | (exfalso; revert hp; decide) | simp [Agree, State.memRead1, State.readV, State.cell]

theorem keepsExcept_begin (s : State) : KeepsExcept [.pc, .opcode, .sample, .inputs, .outcome] s s.begin := by
  rw [State.begin_eq]
  intro p hp
  cases p <;> first | (exfalso; revert hp; decide) | simp [Agree, State.memRead1, State.readV, State.cell]

theorem regsExcept_writeV (s : State) (r : Reg) (b : Byte) : RegsExcept [r] s (s.writeV r b) :=
  fun q hq => s.readV_writeV_ne b (by simpa using hq)

end Sys2Proof.Machine
end

