-- ==== Sys2Proof/Laws/Control.lean ====
section
/-! SUPPORT. What a call, a return and a wait for a key can do, case by case. -/

namespace Sys2Proof.Machine

/-- A call faults on the full stack, else pushes the advanced `PC` and jumps. -/
theorem State.call_cases (s : State) (a : Word) :
    (s.sp.val = 16 ∧ s.call a = s.raise .stackOverflow) ∨
    ∃ h : s.sp.val < 16, s.call a =
      (s.setStack (s.stack.set s.sp.val s.pc h) ⟨s.sp.val + 1, Nat.succ_lt_succ h⟩).setPC a := by
  rcases s.push_cases s.pc with ⟨h, e⟩ | ⟨h, e⟩
  · exact .inl ⟨h, by rw [State.call, e]⟩
  · exact .inr ⟨h, by rw [State.call, e]⟩

/-- A return faults on the empty stack, else pops the last entry into `PC`. -/
theorem State.ret_cases (s : State) :
    (s.sp.val = 0 ∧ s.ret = s.raise .stackUnderflow) ∨
    ∃ (_ : 0 < s.sp.val) (h : s.sp.val - 1 < 16) (h' : s.sp.val - 1 < 17),
      s.ret = (s.setStack s.stack ⟨s.sp.val - 1, h'⟩).setPC s.stack[s.sp.val - 1] := by
  rcases s.pop_cases with ⟨h, e⟩ | ⟨h, h1, h2, e⟩
  · exact .inl ⟨h, by rw [State.ret, e]⟩
  · exact .inr ⟨h, h1, h2, by rw [State.ret, e]⟩

/-- A wait with no key pressed undoes the advance, else it takes the least pressed key. -/
theorem State.waitKey_cases (s : State) (x : Reg) :
    (s.keys = 0#16 ∧ s.waitKey x = s.backUp) ∨
    ∃ k, k < 16 ∧ s.keys.getLsbD k = true ∧ (∀ j < k, s.keys.getLsbD j = false) ∧
      s.waitKey x = s.writeV x (BitVec.ofNat 8 k) := by
  rcases s.firstKey_cases with ⟨e, h⟩ | ⟨k, e, hk, hb, hl⟩
  · exact .inl ⟨h, by rw [State.waitKey, e]⟩
  · exact .inr ⟨k, hk, hb, hl, by rw [State.waitKey, e]⟩

end Sys2Proof.Machine
end

