-- ==== Sys2Proof/Laws/Decode.lean ====
section
/-! SUPPORT. The bit fields: what each encoder's fields are, that the fields put together give the opcode back, and
which fields a masked comparison fixes. -/

namespace Sys2Proof

@[simp] theorem regOfNibble_nibbleOfReg (r : Reg) : regOfNibble (nibbleOfReg r) = r := rfl

@[simp] theorem nibbleOfReg_regOfNibble (b : Nibble) : nibbleOfReg (regOfNibble b) = b := rfl

/-! ## Four nibbles, and a nibble before an address -/

section nibbles
variable (a b c d : Nibble)

theorem nibbles_first : ((a ++ b : BitVec 8) ++ (c ++ d : BitVec 8) : Word).extractLsb' 12 4 = a := by
  apply BitVec.eq_of_getLsbD_eq
  intro i hi
  simp only [BitVec.getLsbD_extractLsb', BitVec.getLsbD_append]
  interval_cases i <;> simp

theorem nibbles_second : ((a ++ b : BitVec 8) ++ (c ++ d : BitVec 8) : Word).extractLsb' 8 4 = b := by
  apply BitVec.eq_of_getLsbD_eq
  intro i hi
  simp only [BitVec.getLsbD_extractLsb', BitVec.getLsbD_append]
  interval_cases i <;> simp

theorem nibbles_third : ((a ++ b : BitVec 8) ++ (c ++ d : BitVec 8) : Word).extractLsb' 4 4 = c := by
  apply BitVec.eq_of_getLsbD_eq
  intro i hi
  simp only [BitVec.getLsbD_extractLsb', BitVec.getLsbD_append]
  interval_cases i <;> simp

theorem nibbles_fourth : ((a ++ b : BitVec 8) ++ (c ++ d : BitVec 8) : Word).extractLsb' 0 4 = d := by
  apply BitVec.eq_of_getLsbD_eq
  intro i hi
  simp only [BitVec.getLsbD_extractLsb', BitVec.getLsbD_append]
  interval_cases i <;> simp

theorem nibbles_low : ((a ++ b : BitVec 8) ++ (c ++ d : BitVec 8) : Word).extractLsb' 0 8 = (c ++ d : BitVec 8) := by
  apply BitVec.eq_of_getLsbD_eq
  intro i hi
  simp only [BitVec.getLsbD_extractLsb', BitVec.getLsbD_append]
  interval_cases i <;> simp

end nibbles

/-! ## The fields of each format -/

@[simp] theorem fieldT_encodeAddr (t : Nibble) (nnn : Addr) : fieldT (encodeAddr t nnn) = t := by
  unfold fieldT encodeAddr
  apply BitVec.eq_of_getLsbD_eq
  intro i hi
  simp only [BitVec.getLsbD_extractLsb', BitVec.getLsbD_append]
  interval_cases i <;> simp

@[simp] theorem fieldNNN_encodeAddr (t : Nibble) (nnn : Addr) : fieldNNN (encodeAddr t nnn) = nnn := by
  unfold fieldNNN encodeAddr
  apply BitVec.eq_of_getLsbD_eq
  intro i hi
  simp only [BitVec.getLsbD_extractLsb', BitVec.getLsbD_append]
  interval_cases i <;> simp

@[simp] theorem fieldT_encodeXKK (t : Nibble) (x : Reg) (kk : Byte) : fieldT (encodeXKK t x kk) = t := by
  unfold fieldT encodeXKK
  apply BitVec.eq_of_getLsbD_eq
  intro i hi
  simp only [BitVec.getLsbD_extractLsb', BitVec.getLsbD_append]
  interval_cases i <;> simp

@[simp] theorem fieldX_encodeXKK (t : Nibble) (x : Reg) (kk : Byte) : fieldX (encodeXKK t x kk) = x := by
  change regOfNibble _ = regOfNibble (nibbleOfReg x)
  congr 1
  unfold encodeXKK
  apply BitVec.eq_of_getLsbD_eq
  intro i hi
  simp only [BitVec.getLsbD_extractLsb', BitVec.getLsbD_append]
  interval_cases i <;> simp

@[simp] theorem fieldKK_encodeXKK (t : Nibble) (x : Reg) (kk : Byte) : fieldKK (encodeXKK t x kk) = kk := by
  unfold fieldKK encodeXKK
  apply BitVec.eq_of_getLsbD_eq
  intro i hi
  simp only [BitVec.getLsbD_extractLsb', BitVec.getLsbD_append]
  interval_cases i <;> simp

@[simp] theorem fieldT_encodeXY (t : Nibble) (x y : Reg) (n : Nibble) : fieldT (encodeXY t x y n) = t := by
  unfold fieldT encodeXY
  apply BitVec.eq_of_getLsbD_eq
  intro i hi
  simp only [BitVec.getLsbD_extractLsb', BitVec.getLsbD_append]
  interval_cases i <;> simp

@[simp] theorem fieldX_encodeXY (t : Nibble) (x y : Reg) (n : Nibble) : fieldX (encodeXY t x y n) = x := by
  change regOfNibble _ = regOfNibble (nibbleOfReg x)
  congr 1
  unfold encodeXY
  apply BitVec.eq_of_getLsbD_eq
  intro i hi
  simp only [BitVec.getLsbD_extractLsb', BitVec.getLsbD_append]
  interval_cases i <;> simp

@[simp] theorem fieldY_encodeXY (t : Nibble) (x y : Reg) (n : Nibble) : fieldY (encodeXY t x y n) = y := by
  change regOfNibble _ = regOfNibble (nibbleOfReg y)
  congr 1
  unfold encodeXY
  apply BitVec.eq_of_getLsbD_eq
  intro i hi
  simp only [BitVec.getLsbD_extractLsb', BitVec.getLsbD_append]
  interval_cases i <;> simp

@[simp] theorem fieldN_encodeXY (t : Nibble) (x y : Reg) (n : Nibble) : fieldN (encodeXY t x y n) = n := by
  unfold fieldN encodeXY
  apply BitVec.eq_of_getLsbD_eq
  intro i hi
  simp only [BitVec.getLsbD_extractLsb', BitVec.getLsbD_append]
  interval_cases i <;> simp

@[simp] theorem fieldT_encodeNone (t : Nibble) (m : BitVec 8) (n : Nibble) : fieldT (encodeNone t m n) = t := by
  unfold fieldT encodeNone
  apply BitVec.eq_of_getLsbD_eq
  intro i hi
  simp only [BitVec.getLsbD_extractLsb', BitVec.getLsbD_append]
  interval_cases i <;> simp

@[simp] theorem fieldMiddle_encodeNone (t : Nibble) (m : BitVec 8) (n : Nibble) : fieldMiddle (encodeNone t m n) = m := by
  unfold fieldMiddle encodeNone
  apply BitVec.eq_of_getLsbD_eq
  intro i hi
  simp only [BitVec.getLsbD_extractLsb', BitVec.getLsbD_append]
  interval_cases i <;> simp

@[simp] theorem fieldN_encodeNone (t : Nibble) (m : BitVec 8) (n : Nibble) : fieldN (encodeNone t m n) = n := by
  unfold fieldN encodeNone
  apply BitVec.eq_of_getLsbD_eq
  intro i hi
  simp only [BitVec.getLsbD_extractLsb', BitVec.getLsbD_append]
  interval_cases i <;> simp

@[simp] theorem fieldT_encodeKey (x : Reg) (g n : Nibble) : fieldT (encodeKey x g n) = 0xE#4 := by
  unfold fieldT encodeKey
  apply BitVec.eq_of_getLsbD_eq
  intro i hi
  simp only [BitVec.getLsbD_extractLsb', BitVec.getLsbD_append]
  interval_cases i <;> simp

@[simp] theorem fieldX_encodeKey (x : Reg) (g n : Nibble) : fieldX (encodeKey x g n) = x := by
  change regOfNibble _ = regOfNibble (nibbleOfReg x)
  congr 1
  unfold encodeKey
  apply BitVec.eq_of_getLsbD_eq
  intro i hi
  simp only [BitVec.getLsbD_extractLsb', BitVec.getLsbD_append]
  interval_cases i <;> simp

@[simp] theorem fieldThird_encodeKey (x : Reg) (g n : Nibble) : fieldThird (encodeKey x g n) = g := by
  unfold fieldThird encodeKey
  apply BitVec.eq_of_getLsbD_eq
  intro i hi
  simp only [BitVec.getLsbD_extractLsb', BitVec.getLsbD_append]
  interval_cases i <;> simp

@[simp] theorem fieldN_encodeKey (x : Reg) (g n : Nibble) : fieldN (encodeKey x g n) = n := by
  unfold fieldN encodeKey
  apply BitVec.eq_of_getLsbD_eq
  intro i hi
  simp only [BitVec.getLsbD_extractLsb', BitVec.getLsbD_append]
  interval_cases i <;> simp

/-! ## The fields put together -/

theorem encodeAddr_fields (op : Word) : encodeAddr (fieldT op) (fieldNNN op) = op := by
  unfold encodeAddr fieldT fieldNNN
  apply BitVec.eq_of_getLsbD_eq
  intro i hi
  simp only [BitVec.getLsbD_extractLsb', BitVec.getLsbD_append]
  interval_cases i <;> simp

theorem encodeXKK_fields (op : Word) : encodeXKK (fieldT op) (fieldX op) (fieldKK op) = op := by
  unfold encodeXKK fieldT fieldX fieldKK
  apply BitVec.eq_of_getLsbD_eq
  intro i hi
  simp only [BitVec.getLsbD_extractLsb', BitVec.getLsbD_append, nibbleOfReg, regOfNibble, BitVec.ofFin_toFin]
  interval_cases i <;> simp

theorem encodeXY_fields (op : Word) : encodeXY (fieldT op) (fieldX op) (fieldY op) (fieldN op) = op := by
  unfold encodeXY fieldT fieldX fieldY fieldN
  apply BitVec.eq_of_getLsbD_eq
  intro i hi
  simp only [BitVec.getLsbD_extractLsb', BitVec.getLsbD_append, nibbleOfReg, regOfNibble, BitVec.ofFin_toFin]
  interval_cases i <;> simp

theorem encodeNone_fields (op : Word) : encodeNone (fieldT op) (fieldMiddle op) (fieldN op) = op := by
  unfold encodeNone fieldT fieldMiddle fieldN
  apply BitVec.eq_of_getLsbD_eq
  intro i hi
  simp only [BitVec.getLsbD_extractLsb', BitVec.getLsbD_append]
  interval_cases i <;> simp

theorem encodeKey_fields (op : Word) (h : fieldT op = 0xE#4) :
    encodeKey (fieldX op) (fieldThird op) (fieldN op) = op := by
  rw [encodeKey, ← h]
  unfold fieldT fieldX fieldThird fieldN
  apply BitVec.eq_of_getLsbD_eq
  intro i hi
  simp only [BitVec.getLsbD_extractLsb', BitVec.getLsbD_append, nibbleOfReg, regOfNibble, BitVec.ofFin_toFin]
  interval_cases i <;> simp

/-- The two bytes of an opcode, high byte first, are the opcode. -/
theorem wordOfBytes_bytes (op : Word) : wordOfBytes (highByte op) (lowByte op) = op := by
  unfold wordOfBytes highByte lowByte
  apply BitVec.eq_of_getLsbD_eq
  intro i hi
  simp only [BitVec.getLsbD_extractLsb', BitVec.getLsbD_append]
  interval_cases i <;> simp

/-! ## What a masked comparison fixes -/

theorem fieldT_of_and_F000 {op m : Word} (h : op &&& 0xF000#16 = m) : fieldT op = m.extractLsb' 12 4 := by
  subst h
  unfold fieldT
  apply BitVec.eq_of_getLsbD_eq
  intro i hi
  simp only [BitVec.getLsbD_extractLsb', BitVec.getLsbD_and]
  interval_cases i <;> simp

theorem fieldT_of_and_F00F {op m : Word} (h : op &&& 0xF00F#16 = m) : fieldT op = m.extractLsb' 12 4 := by
  subst h
  unfold fieldT
  apply BitVec.eq_of_getLsbD_eq
  intro i hi
  simp only [BitVec.getLsbD_extractLsb', BitVec.getLsbD_and]
  interval_cases i <;> simp

theorem fieldN_of_and_F00F {op m : Word} (h : op &&& 0xF00F#16 = m) : fieldN op = m.extractLsb' 0 4 := by
  subst h
  unfold fieldN
  apply BitVec.eq_of_getLsbD_eq
  intro i hi
  simp only [BitVec.getLsbD_extractLsb', BitVec.getLsbD_and]
  interval_cases i <;> simp

theorem fieldT_of_and_F0FF {op m : Word} (h : op &&& 0xF0FF#16 = m) : fieldT op = m.extractLsb' 12 4 := by
  subst h
  unfold fieldT
  apply BitVec.eq_of_getLsbD_eq
  intro i hi
  simp only [BitVec.getLsbD_extractLsb', BitVec.getLsbD_and]
  interval_cases i <;> simp

theorem fieldKK_of_and_F0FF {op m : Word} (h : op &&& 0xF0FF#16 = m) : fieldKK op = m.extractLsb' 0 8 := by
  subst h
  unfold fieldKK
  apply BitVec.eq_of_getLsbD_eq
  intro i hi
  simp only [BitVec.getLsbD_extractLsb', BitVec.getLsbD_and]
  interval_cases i <;> simp

end Sys2Proof
end

