-- ==== Sys2Proof/Laws/IndexMemory.lean ====
section
/-! SUPPORT. Loading registers from memory: one update of the register file, and what each register holds after. -/

namespace Sys2Proof.Machine

theorem State.loadRegs_eq (s : State) (ks : List Reg) : s.loadRegs ks = s.setRegs (s.loadRegs ks).v := by
  induction ks generalizing s with
  | nil => rfl
  | cons k ks ih => rw [State.loadRegs, ih]; rfl

theorem State.readV_loadRegs (s : State) (ks : List Reg) (r : Reg) :
    (s.loadRegs ks).readV r = if r ∈ ks then s.memRead1 (s.ea r.val) else s.readV r := by
  induction ks generalizing s with
  | nil => rfl
  | cons k ks ih =>
    rw [State.loadRegs, ih]
    by_cases hk : r = k
    · subst hk
      by_cases hm : r ∈ ks
      · simp only [hm, List.mem_cons, or_true, if_true]; rfl
      · simp [hm]
    · by_cases hm : r ∈ ks
      · simp only [hm, List.mem_cons, or_true, if_true]; rfl
      · simp [hm, hk, State.readV_writeV_ne]

theorem keepsExcept_loadRegs (s : State) (ks : List Reg) : KeepsExcept [.regs] s (s.loadRegs ks) := by
  rw [State.loadRegs_eq]
  exact keepsExcept_setRegs s _

end Sys2Proof.Machine
end

