-- ==== Sys2Proof/Laws/PerInstr.lean ====
section
/-! SUPPORT. The family `EncodesItsRow`, one lemma per instruction: an instruction's opcode compares equal to its own
row of the opcode map under the row's mask (30_encoding.md R78). -/

namespace Sys2Proof.Laws.EncodesItsRow

/-- The mask and match of an instruction's row; the NOP row has none (R78). -/
def row : Instr → Option (Word × Word)
  | .cls _ => some (0xF00F#16, 0x0000#16)
  | .ret _ => some (0xF00F#16, 0x000E#16)
  | .jp _ => some (0xF000#16, 0x1000#16)
  | .call _ => some (0xF000#16, 0x2000#16)
  | .seImm _ _ => some (0xF000#16, 0x3000#16)
  | .sneImm _ _ => some (0xF000#16, 0x4000#16)
  | .seReg _ _ _ => some (0xF000#16, 0x5000#16)
  | .ldImm _ _ => some (0xF000#16, 0x6000#16)
  | .addImm _ _ => some (0xF000#16, 0x7000#16)
  | .ldReg _ _ => some (0xF00F#16, 0x8000#16)
  | .or _ _ => some (0xF00F#16, 0x8001#16)
  | .and _ _ => some (0xF00F#16, 0x8002#16)
  | .xor _ _ => some (0xF00F#16, 0x8003#16)
  | .addReg _ _ => some (0xF00F#16, 0x8004#16)
  | .sub _ _ => some (0xF00F#16, 0x8005#16)
  | .shr _ _ => some (0xF00F#16, 0x8006#16)
  | .subn _ _ => some (0xF00F#16, 0x8007#16)
  | .shl _ _ => some (0xF00F#16, 0x800E#16)
  | .sneReg _ _ _ => some (0xF000#16, 0x9000#16)
  | .ldI _ => some (0xF000#16, 0xA000#16)
  | .jpV0 _ => some (0xF000#16, 0xB000#16)
  | .rnd _ _ => some (0xF000#16, 0xC000#16)
  | .drw _ _ _ => some (0xF000#16, 0xD000#16)
  | .skp _ _ => some (0xF00F#16, 0xE00E#16)
  | .sknp _ _ => some (0xF00F#16, 0xE001#16)
  | .ldVxDt _ => some (0xF0FF#16, 0xF007#16)
  | .ldVxK _ => some (0xF0FF#16, 0xF00A#16)
  | .ldDtVx _ => some (0xF0FF#16, 0xF015#16)
  | .ldStVx _ => some (0xF0FF#16, 0xF018#16)
  | .addI _ => some (0xF0FF#16, 0xF01E#16)
  | .ldF _ => some (0xF0FF#16, 0xF029#16)
  | .ldB _ => some (0xF0FF#16, 0xF033#16)
  | .stRegs _ => some (0xF0FF#16, 0xF055#16)
  | .ldRegs _ => some (0xF0FF#16, 0xF065#16)
  | .nop _ => none

/-- The opcode of `i` matches the row of `i`; the opcode of a well-formed NOP is one of the no-operation set. -/
def Statement (i : Instr) : Prop :=
  match row i with
  | some (mask, m) => encode i &&& mask = m
  | none => i.wf = true → isNopWord (encode i) = true

theorem encodeAddr_and (t : Nibble) (nnn : Addr) : encodeAddr t nnn &&& 0xF000#16 = encodeAddr t 0#12 := by
  unfold encodeAddr
  apply BitVec.eq_of_getLsbD_eq
  intro i hi
  simp only [BitVec.getLsbD_and, BitVec.getLsbD_append]
  interval_cases i <;> simp

theorem encodeXKK_and_F000 (t : Nibble) (x : Reg) (kk : Byte) : encodeXKK t x kk &&& 0xF000#16 = encodeXKK t 0 0#8 := by
  unfold encodeXKK nibbleOfReg
  apply BitVec.eq_of_getLsbD_eq
  intro i hi
  simp only [BitVec.getLsbD_and, BitVec.getLsbD_append]
  interval_cases i <;> simp

theorem encodeXKK_and_F0FF (t : Nibble) (x : Reg) (kk : Byte) : encodeXKK t x kk &&& 0xF0FF#16 = encodeXKK t 0 kk := by
  unfold encodeXKK nibbleOfReg
  apply BitVec.eq_of_getLsbD_eq
  intro i hi
  simp only [BitVec.getLsbD_and, BitVec.getLsbD_append]
  interval_cases i <;> simp

theorem encodeXY_and_F000 (t : Nibble) (x y : Reg) (n : Nibble) : encodeXY t x y n &&& 0xF000#16 = encodeXY t 0 0 0#4 := by
  unfold encodeXY nibbleOfReg
  apply BitVec.eq_of_getLsbD_eq
  intro i hi
  simp only [BitVec.getLsbD_and, BitVec.getLsbD_append]
  interval_cases i <;> simp

theorem encodeXY_and_F00F (t : Nibble) (x y : Reg) (n : Nibble) : encodeXY t x y n &&& 0xF00F#16 = encodeXY t 0 0 n := by
  unfold encodeXY nibbleOfReg
  apply BitVec.eq_of_getLsbD_eq
  intro i hi
  simp only [BitVec.getLsbD_and, BitVec.getLsbD_append]
  interval_cases i <;> simp

theorem encodeNone_and (t : Nibble) (m : BitVec 8) (n : Nibble) : encodeNone t m n &&& 0xF00F#16 = encodeNone t 0#8 n := by
  unfold encodeNone
  apply BitVec.eq_of_getLsbD_eq
  intro i hi
  simp only [BitVec.getLsbD_and, BitVec.getLsbD_append]
  interval_cases i <;> simp

theorem encodeKey_and (x : Reg) (g n : Nibble) : encodeKey x g n &&& 0xF00F#16 = encodeKey 0 0#4 n := by
  unfold encodeKey nibbleOfReg
  apply BitVec.eq_of_getLsbD_eq
  intro i hi
  simp only [BitVec.getLsbD_and, BitVec.getLsbD_append]
  interval_cases i <;> simp

theorem cls (m : BitVec 8) : Statement (.cls m) := encodeNone_and 0x0#4 m 0x0#4

theorem ret (m : BitVec 8) : Statement (.ret m) := encodeNone_and 0x0#4 m 0xE#4

theorem jp (a : Addr) : Statement (.jp a) := encodeAddr_and 0x1#4 a

theorem call (a : Addr) : Statement (.call a) := encodeAddr_and 0x2#4 a

theorem seImm (x : Reg) (kk : Byte) : Statement (.seImm x kk) := encodeXKK_and_F000 0x3#4 x kk

theorem sneImm (x : Reg) (kk : Byte) : Statement (.sneImm x kk) := encodeXKK_and_F000 0x4#4 x kk

theorem seReg (x y : Reg) (n : Nibble) : Statement (.seReg x y n) := encodeXY_and_F000 0x5#4 x y n

theorem ldImm (x : Reg) (kk : Byte) : Statement (.ldImm x kk) := encodeXKK_and_F000 0x6#4 x kk

theorem addImm (x : Reg) (kk : Byte) : Statement (.addImm x kk) := encodeXKK_and_F000 0x7#4 x kk

theorem ldReg (x y : Reg) : Statement (.ldReg x y) := encodeXY_and_F00F 0x8#4 x y 0x0#4

theorem or (x y : Reg) : Statement (.or x y) := encodeXY_and_F00F 0x8#4 x y 0x1#4

theorem and (x y : Reg) : Statement (.and x y) := encodeXY_and_F00F 0x8#4 x y 0x2#4

theorem xor (x y : Reg) : Statement (.xor x y) := encodeXY_and_F00F 0x8#4 x y 0x3#4

theorem addReg (x y : Reg) : Statement (.addReg x y) := encodeXY_and_F00F 0x8#4 x y 0x4#4

theorem sub (x y : Reg) : Statement (.sub x y) := encodeXY_and_F00F 0x8#4 x y 0x5#4

theorem shr (x y : Reg) : Statement (.shr x y) := encodeXY_and_F00F 0x8#4 x y 0x6#4

theorem subn (x y : Reg) : Statement (.subn x y) := encodeXY_and_F00F 0x8#4 x y 0x7#4

theorem shl (x y : Reg) : Statement (.shl x y) := encodeXY_and_F00F 0x8#4 x y 0xE#4

theorem sneReg (x y : Reg) (n : Nibble) : Statement (.sneReg x y n) := encodeXY_and_F000 0x9#4 x y n

theorem ldI (a : Addr) : Statement (.ldI a) := encodeAddr_and 0xA#4 a

theorem jpV0 (a : Addr) : Statement (.jpV0 a) := encodeAddr_and 0xB#4 a

theorem rnd (x : Reg) (kk : Byte) : Statement (.rnd x kk) := encodeXKK_and_F000 0xC#4 x kk

theorem drw (x y : Reg) (n : Nibble) : Statement (.drw x y n) := encodeXY_and_F000 0xD#4 x y n

theorem skp (x : Reg) (g : Nibble) : Statement (.skp x g) := encodeKey_and x g 0xE#4

theorem sknp (x : Reg) (g : Nibble) : Statement (.sknp x g) := encodeKey_and x g 0x1#4

theorem ldVxDt (x : Reg) : Statement (.ldVxDt x) := encodeXKK_and_F0FF 0xF#4 x 0x07#8

theorem ldVxK (x : Reg) : Statement (.ldVxK x) := encodeXKK_and_F0FF 0xF#4 x 0x0A#8

theorem ldDtVx (x : Reg) : Statement (.ldDtVx x) := encodeXKK_and_F0FF 0xF#4 x 0x15#8

theorem ldStVx (x : Reg) : Statement (.ldStVx x) := encodeXKK_and_F0FF 0xF#4 x 0x18#8

theorem addI (x : Reg) : Statement (.addI x) := encodeXKK_and_F0FF 0xF#4 x 0x1E#8

theorem ldF (x : Reg) : Statement (.ldF x) := encodeXKK_and_F0FF 0xF#4 x 0x29#8

theorem ldB (x : Reg) : Statement (.ldB x) := encodeXKK_and_F0FF 0xF#4 x 0x33#8

theorem stRegs (x : Reg) : Statement (.stRegs x) := encodeXKK_and_F0FF 0xF#4 x 0x55#8

theorem ldRegs (x : Reg) : Statement (.ldRegs x) := encodeXKK_and_F0FF 0xF#4 x 0x65#8

theorem nop (op : Word) : Statement (.nop op) := fun h => h

end Sys2Proof.Laws.EncodesItsRow
end

