-- ==== Sys2Proof/Laws/Ports.lean ====
section
/-! SUPPORT. What a reset leaves, for every value of the parameter `FONTSET`. -/

namespace Sys2Proof.Machine

/-- A reset with the default fontset is the reset state. -/
theorem State.resetWith_default : State.resetWith defaultFontset = State.reset := by decide

/-- Only memory depends on the fontset. -/
theorem State.resetWith_eq (font : Fontset) : State.resetWith font = State.reset.setMem (State.resetWith font).mem :=
  State.memWriteAll_eq _ _ _

theorem State.resetWith_wf (font : Fontset) : (State.resetWith font).mem.wf = true :=
  State.memWriteAll_wf _ _ _ rfl

/-- The fontset stands at `FONT_BASE`. -/
theorem State.memRead1_resetWith_font (font : Fontset) (k : Nat) (h : k < 80) :
    (State.resetWith font).memRead1 (0x050 + k) = font[k] := by
  have hlen : font.toList.length = 80 := font.length_toList
  have := State.memRead1_memWriteAll_inside State.reset 0x050 font.toList (by omega) k (by omega)
  rwa [Vector.getElem_toList] at this

/-- Every byte outside the fontset is zero. -/
theorem State.memRead1_resetWith_outside (font : Fontset) (a : Nat) (h : memIndex a < 0x050 ∨ 0x0A0 ≤ memIndex a) :
    (State.resetWith font).memRead1 a = 0#8 := by
  have hlen : font.toList.length = 80 := font.length_toList
  have hne : ∀ j < font.toList.length, memIndex a ≠ memIndex (Config.fontBase + j) := by
    intro j hj
    have : memIndex (Config.fontBase + j) = 0x050 + j := Nat.mod_eq_of_lt (by simp only [Config.fontBase, Config.memSize]; omega)
    omega
  rw [State.resetWith, State.memRead1_memWriteAll_outside _ _ _ _ hne]
  show Memory.unlisted (memIndex a) = 0#8
  unfold Memory.unlisted
  have hg : defaultGlyphs.length = 80 := rfl
  split
  · next hb =>
      have hb' : 0x050 ≤ memIndex a := hb
      exact List.getD_eq_default _ _ (by simp only [Config.fontBase]; omega)
  · rfl

end Sys2Proof.Machine
end

