-- ==== Sys2Proof/Laws/Screen.lean ====
section
/-! SUPPORT. Drawing, cell by cell: what one toggled bit, one row and a whole sprite do to each cell and to the
collision flag. -/

namespace Sys2Proof.Machine

@[simp] theorem Display.lit_blank (py px : Nat) : Display.blank.lit py px = false := by
  simp [Display.blank, Display.lit]

theorem Display.lit_outside (d : Display) {py px : Nat} (h : ¬(py < 32 ∧ px < 64)) : d.lit py px = false :=
  dif_neg h

/-- All a toggle does to the cells. -/
theorem Display.lit_toggle (d : Display) (py px qy qx : Nat) :
    (d.toggle py px).lit qy qx = if qy = py ∧ qx = px ∧ py < 32 ∧ px < 64 then !d.lit qy qx else d.lit qy qx := by
  by_cases h : py < 32 ∧ px < 64
  · by_cases hq : qy < 32 ∧ qx < 64
    · by_cases hy : py = qy
      · subst hy
        by_cases hx : px = qx
        · subst hx; simp [Display.toggle, Display.lit, h.1, h.2]
        · simp [Display.toggle, Display.lit, h.1, h.2, hq.2, hx, Ne.symm hx]
      · simp [Display.toggle, Display.lit, h.1, h.2, hq.1, hq.2, hy, Ne.symm hy]
    · have : ¬(qy = py ∧ qx = px ∧ py < 32 ∧ px < 64) := fun e => hq ⟨e.1 ▸ h.1, e.2.1 ▸ h.2⟩
      rw [if_neg this, Display.lit_outside _ hq, Display.lit_outside _ hq]
  · have : ¬(qy = py ∧ qx = px ∧ py < 32 ∧ px < 64) := fun e => h e.2.2
    rw [if_neg this, Display.toggle, dif_neg h]

/-- Displays with the same cells are equal. -/
theorem Display.ext_lit (d e : Display) (h : ∀ py px, d.lit py px = e.lit py px) : d = e := by
  ext py hy px hx
  have := h py px
  simpa [Display.lit, hy, hx] using this

/-- One sprite bit at a cell. -/
theorem plotBit_lit (acc : Display × Bool) (bit : Bool) (py px qy qx : Nat) :
    (plotBit acc bit py px).1.lit qy qx =
      (acc.1.lit qy qx ^^ decide (bit = true ∧ qy = py ∧ qx = px ∧ qy < 32 ∧ qx < 64)) := by
  cases bit
  · simp [plotBit]
  · simp only [plotBit, if_true, Display.lit_toggle]
    by_cases h : qy = py ∧ qx = px ∧ py < 32 ∧ px < 64
    · obtain ⟨rfl, rfl, h1, h2⟩ := h; simp [h1, h2]
    · have h' : ¬(qy = py ∧ qx = px ∧ qy < 32 ∧ qx < 64) := fun e => h ⟨e.1, e.2.1, e.1 ▸ e.2.2.1, e.2.1 ▸ e.2.2.2⟩
      simp [h, h']

theorem plotBit_collision (acc : Display × Bool) (bit : Bool) (py px : Nat) :
    (plotBit acc bit py px).2 = (acc.2 || (bit && acc.1.lit py px)) := by
  cases bit <;> simp [plotBit]

/-- The first `m` columns of a row: each cell once. -/
theorem plotCols_spec (acc : Display × Bool) (b : Byte) (py ox m : Nat) :
    let res := (List.range m).foldl (fun acc col => plotBit acc (spriteBit b col) py (ox + col)) acc
    (∀ qy qx, res.1.lit qy qx = (acc.1.lit qy qx ^^
      decide (qy = py ∧ ox ≤ qx ∧ qx < ox + m ∧ spriteBit b (qx - ox) = true ∧ qy < 32 ∧ qx < 64))) ∧
    (res.2 = true ↔ acc.2 = true ∨ ∃ col < m, spriteBit b col = true ∧ acc.1.lit py (ox + col) = true) := by
  induction m with
  | zero =>
    refine ⟨fun qy qx => ?_, by simp⟩
    have : ¬(qy = py ∧ ox ≤ qx ∧ qx < ox + 0 ∧ spriteBit b (qx - ox) = true ∧ qy < 32 ∧ qx < 64) := by omega
    simp only [this, decide_false, Bool.xor_false]
    rfl
  | succ m ih =>
    obtain ⟨ih1, ih2⟩ := ih
    simp only [List.range_succ, List.foldl_append, List.foldl_cons, List.foldl_nil]
    refine ⟨fun qy qx => ?_, ?_⟩
    · rw [plotBit_lit, ih1, Bool.xor_assoc]
      congr 1
      by_cases hx : qx = ox + m
      · subst hx
        by_cases hb : spriteBit b m = true <;> simp [hb]
      · by_cases hlt : qx < ox + m
        · simp [hx, hlt, show qx < ox + (m + 1) by omega]
        · simp [hx, hlt, show ¬qx < ox + (m + 1) by omega]
    · rw [plotBit_collision, Bool.or_eq_true, ih2, Bool.and_eq_true, ih1]
      have hself : decide (py = py ∧ ox ≤ ox + m ∧ ox + m < ox + m ∧ spriteBit b (ox + m - ox) = true ∧
          py < 32 ∧ ox + m < 64) = false := by simp
      rw [hself, Bool.xor_false]
      constructor
      · rintro ((h | ⟨c, hc, hb, hl⟩) | ⟨hb, hl⟩)
        · exact .inl h
        · exact .inr ⟨c, by omega, hb, hl⟩
        · exact .inr ⟨m, by omega, hb, hl⟩
      · rintro (h | ⟨c, hc, hb, hl⟩)
        · exact .inl (.inl h)
        · rcases Nat.lt_succ_iff_lt_or_eq.mp hc with hc | rfl
          · exact .inl (.inr ⟨c, hc, hb, hl⟩)
          · exact .inr ⟨hb, hl⟩

/-- One sprite row. -/
theorem plotRow_lit (acc : Display × Bool) (b : Byte) (py ox qy qx : Nat) :
    (plotRow acc b py ox).1.lit qy qx = (acc.1.lit qy qx ^^
      decide (qy = py ∧ ox ≤ qx ∧ qx < ox + 8 ∧ spriteBit b (qx - ox) = true ∧ qy < 32 ∧ qx < 64)) :=
  (plotCols_spec acc b py ox 8).1 qy qx

theorem plotRow_collision (acc : Display × Bool) (b : Byte) (py ox : Nat) :
    (plotRow acc b py ox).2 = true ↔
      acc.2 = true ∨ ∃ col < 8, spriteBit b col = true ∧ acc.1.lit py (ox + col) = true :=
  (plotCols_spec acc b py ox 8).2

/-- A whole sprite: each cell it covers, inside the grid, once; a collision if one of them was lit. -/
theorem plotSprite_spec (acc : Display × Bool) (bytes : Nat → Byte) (ox oy n : Nat) :
    (∀ qy qx, (plotSprite acc bytes ox oy n).1.lit qy qx = (acc.1.lit qy qx ^^
      decide (oy ≤ qy ∧ qy < oy + n ∧ ox ≤ qx ∧ qx < ox + 8 ∧ spriteBit (bytes (qy - oy)) (qx - ox) = true ∧
        qy < 32 ∧ qx < 64))) ∧
    ((plotSprite acc bytes ox oy n).2 = true ↔ acc.2 = true ∨
      ∃ row < n, ∃ col < 8, spriteBit (bytes row) col = true ∧ acc.1.lit (oy + row) (ox + col) = true) := by
  unfold plotSprite
  induction n with
  | zero =>
    refine ⟨fun qy qx => ?_, by simp⟩
    have : ¬(oy ≤ qy ∧ qy < oy + 0 ∧ ox ≤ qx ∧ qx < ox + 8 ∧ spriteBit (bytes (qy - oy)) (qx - ox) = true ∧
        qy < 32 ∧ qx < 64) := by omega
    simp only [this, decide_false, Bool.xor_false]
    rfl
  | succ n ih =>
    obtain ⟨ih1, ih2⟩ := ih
    simp only [List.range_succ, List.foldl_append, List.foldl_cons, List.foldl_nil]
    refine ⟨fun qy qx => ?_, ?_⟩
    · rw [plotRow_lit, ih1, Bool.xor_assoc]
      congr 1
      by_cases hy : qy = oy + n
      · subst hy; simp
      · by_cases hlt : qy < oy + n
        · simp [hy, hlt, show qy < oy + (n + 1) by omega]
        · simp [hy, hlt, show ¬qy < oy + (n + 1) by omega]
    · rw [plotRow_collision, ih2]
      have hrow : ∀ col, ((List.range n).foldl (fun acc row => plotRow acc (bytes row) (oy + row) ox) acc).1.lit
          (oy + n) (ox + col) = acc.1.lit (oy + n) (ox + col) := fun col => by rw [ih1]; simp
      simp only [hrow]
      constructor
      · rintro ((h | ⟨r, hr, hc⟩) | hc)
        · exact .inl h
        · exact .inr ⟨r, by omega, hc⟩
        · exact .inr ⟨n, by omega, hc⟩
      · rintro (h | ⟨r, hr, hc⟩)
        · exact .inl (.inl h)
        · rcases Nat.lt_succ_iff_lt_or_eq.mp hr with hr | rfl
          · exact .inl (.inr ⟨r, hr, hc⟩)
          · exact .inr hc

/-- A cell of the grid that a set sprite bit covers is toggled. -/
theorem plotSprite_lit_covered (acc : Display × Bool) (bytes : Nat → Byte) (ox oy n qy qx : Nat)
    (h : oy ≤ qy ∧ qy < oy + n ∧ ox ≤ qx ∧ qx < ox + 8 ∧ spriteBit (bytes (qy - oy)) (qx - ox) = true)
    (hg : qy < 32 ∧ qx < 64) : (plotSprite acc bytes ox oy n).1.lit qy qx = !acc.1.lit qy qx := by
  rw [(plotSprite_spec acc bytes ox oy n).1, decide_eq_true ⟨h.1, h.2.1, h.2.2.1, h.2.2.2.1, h.2.2.2.2, hg⟩]
  simp

/-- Every other cell keeps its value. -/
theorem plotSprite_lit_uncovered (acc : Display × Bool) (bytes : Nat → Byte) (ox oy n qy qx : Nat)
    (h : ¬(oy ≤ qy ∧ qy < oy + n ∧ ox ≤ qx ∧ qx < ox + 8 ∧ spriteBit (bytes (qy - oy)) (qx - ox) = true)) :
    (plotSprite acc bytes ox oy n).1.lit qy qx = acc.1.lit qy qx := by
  rw [(plotSprite_spec acc bytes ox oy n).1,
    decide_eq_false fun e => h ⟨e.1, e.2.1, e.2.2.1, e.2.2.2.1, e.2.2.2.2.1⟩]
  simp

end Sys2Proof.Machine
end

