-- ==== Sys2Proof/Laws/Step.lean ====
section
/-! SUPPORT. What a step can do, once: it runs the decoded instruction between the phases of R100. -/

namespace Sys2Proof.Machine

/-- A step whose handler answers a next state answers it after the timer phase. -/
theorem step_of_exec {s t : State} (h : exec (decodeWord s.begin.opcode) s.begin = .next t) :
    step s = .next t.timerPhase := by
  rw [step, h]

/-- A next state of a step is the handler's next state after the timer phase. -/
theorem step_next {s u : State} (h : step s = .next u) :
    ∃ t, exec (decodeWord s.begin.opcode) s.begin = .next t ∧ u = t.timerPhase := by
  rw [step] at h
  split at h
  · next t ht => exact ⟨t, ht, by cases h; rfl⟩
  · cases h
  · cases h

/-- The opcode that the step's phases leave in `OPCODE` is the one at `PC`. -/
@[simp] theorem State.begin_opcode (s : State) : s.begin.opcode = s.opcodeAtPC := rfl

/-- A step executes the current instruction. -/
theorem step_of_exec_current {s t : State} (h : exec s.current s.begin = .next t) : step s = .next t.timerPhase :=
  step_of_exec h

/-- What a step's next state comes from, in the words of the claims. -/
theorem step_next_current {s u : State} (h : step s = .next u) :
    ∃ t, exec s.current s.begin = .next t ∧ u = t.timerPhase :=
  step_next h

end Sys2Proof.Machine
end

