-- ==== Sys2Proof/Tests/Slice0.lean ====
section
/-! SUPPORT. The model's own tests. The expected values are those of the row of spec/95_test_vectors.md that stands beside
a test; words are written out from the patterns of spec/30_encoding.md R78. Then, for every obligation with hypotheses,
a concrete case that meets them. -/

namespace Sys2Proof.Tests

open Sys2Proof.Machine Sys2Proof.Claims

/-! ## Well-formed instructions -/

theorem test_wf_refuses_a_nop_that_is_no_nop :
    [0x1234#16, 0x0000#16, 0x000E#16, 0x8127#16, 0x812E#16, 0xE001#16, 0xE00E#16, 0xF007#16, 0xF065#16].all
      (fun op => !(Instr.nop op).wf) = true := by decide

theorem test_wf_accepts_the_nop_set :
    [0x0001#16, 0x000F#16, 0x8128#16, 0x812D#16, 0x812F#16, 0xE000#16, 0xE49F#16, 0xF075#16, 0xFFFF#16].all
      (fun op => (Instr.nop op).wf) = true := by decide

theorem test_wf_accepts_operands_at_their_limits :
    (Instr.cls 0xFF#8).wf = true ∧ (Instr.jp 0xFFF#12).wf = true ∧ (Instr.drw 15 15 0xF#4).wf = true := by
  decide

/-! ## Decoding: one word per constructor -/
theorem test_decode_cls : decodeWord 0b0000000011100000#16 = .cls 0x0E#8 := by decide
theorem test_decode_ret : decodeWord 0b0000000011101110#16 = .ret 0x0E#8 := by decide
theorem test_decode_jp : decodeWord 0b0001101010111100#16 = .jp 0xABC#12 := by decide
theorem test_decode_call : decodeWord 0b0010001100000001#16 = .call 0x301#12 := by decide
theorem test_decode_seImm : decodeWord 0b0011001100101010#16 = .seImm 3 0x2A#8 := by decide
theorem test_decode_sneImm : decodeWord 0b0100111100000001#16 = .sneImm 15 0x01#8 := by decide
theorem test_decode_seReg : decodeWord 0b0101000100100000#16 = .seReg 1 2 0x0#4 := by decide
theorem test_decode_ldImm : decodeWord 0b0110101000111100#16 = .ldImm 10 0x3C#8 := by decide
theorem test_decode_addImm : decodeWord 0b0111001111111111#16 = .addImm 3 0xFF#8 := by decide
theorem test_decode_ldReg : decodeWord 0b1000000100100000#16 = .ldReg 1 2 := by decide
theorem test_decode_or : decodeWord 0b1000000100100001#16 = .or 1 2 := by decide
theorem test_decode_and : decodeWord 0b1000000100100010#16 = .and 1 2 := by decide
theorem test_decode_xor : decodeWord 0b1000000100100011#16 = .xor 1 2 := by decide
theorem test_decode_addReg : decodeWord 0b1000000100100100#16 = .addReg 1 2 := by decide
theorem test_decode_sub : decodeWord 0b1000000100100101#16 = .sub 1 2 := by decide
theorem test_decode_shr : decodeWord 0b1000000100100110#16 = .shr 1 2 := by decide
theorem test_decode_subn : decodeWord 0b1000000100100111#16 = .subn 1 2 := by decide
theorem test_decode_shl : decodeWord 0b1000000100101110#16 = .shl 1 2 := by decide
theorem test_decode_sneReg : decodeWord 0b1001000100100000#16 = .sneReg 1 2 0x0#4 := by decide
theorem test_decode_ldI : decodeWord 0b1010000100100011#16 = .ldI 0x123#12 := by decide
theorem test_decode_jpV0 : decodeWord 0b1011111111111110#16 = .jpV0 0xFFE#12 := by decide
theorem test_decode_rnd : decodeWord 0b1100001100001111#16 = .rnd 3 0x0F#8 := by decide
theorem test_decode_drw : decodeWord 0b1101000100100101#16 = .drw 1 2 0x5#4 := by decide
theorem test_decode_skp : decodeWord 0b1110010010011110#16 = .skp 4 0x9#4 := by decide
theorem test_decode_sknp : decodeWord 0b1110010010100001#16 = .sknp 4 0xA#4 := by decide
theorem test_decode_ldVxDt : decodeWord 0b1111001000000111#16 = .ldVxDt 2 := by decide
theorem test_decode_ldVxK : decodeWord 0b1111001100001010#16 = .ldVxK 3 := by decide
theorem test_decode_ldDtVx : decodeWord 0b1111001000010101#16 = .ldDtVx 2 := by decide
theorem test_decode_ldStVx : decodeWord 0b1111001000011000#16 = .ldStVx 2 := by decide
theorem test_decode_addI : decodeWord 0b1111000100011110#16 = .addI 1 := by decide
theorem test_decode_ldF : decodeWord 0b1111001000101001#16 = .ldF 2 := by decide
theorem test_decode_ldB : decodeWord 0b1111000000110011#16 = .ldB 0 := by decide
theorem test_decode_stRegs : decodeWord 0b1111001001010101#16 = .stRegs 2 := by decide
theorem test_decode_ldRegs : decodeWord 0b1111001001100101#16 = .ldRegs 2 := by decide
theorem test_decode_nop : decodeWord 0b1110000000000000#16 = .nop 0xE000#16 := by decide

/-- 30_encoding.md R81, R84; T2, T6, T21, K7, K8. -/
theorem test_decode_aliases :
    decodeWord 0b0000001000110000#16 = .cls 0x23#8 ∧ decodeWord 0b0000000100101110#16 = .ret 0x12#8 ∧
    decodeWord 0b0101000100100111#16 = .seReg 1 2 0x7#4 ∧ decodeWord 0b1001000100101111#16 = .sneReg 1 2 0xF#4 ∧
    decodeWord 0b1110010000001110#16 = .skp 4 0x0#4 ∧ decodeWord 0b1110010000000001#16 = .sknp 4 0x0#4 := by
  decide

/-- Big-endian (20_memory.md R54), the rest given back, a lone byte rejected by name. -/
theorem test_decode_bytes :
    decode [0x6A#8, 0x3C#8, 0x99#8] = .ok (.ldImm 10 0x3C#8, [0x99#8]) ∧ decode [0x6A#8] = .error .truncated ∧
    decode [] = .error .truncated ∧ encodeBytes (.ldImm 10 0x3C#8) = [0x6A#8, 0x3C#8] := ⟨rfl, rfl, rfl, by decide⟩

theorem test_decode_table_word :
    decodeTableWord 16 0x6A3C = some (.ldImm 10 0x3C#8) ∧ decodeTableWord 24 0x6A3C = none := by decide

/-- 30_encoding.md R83. -/
theorem test_canonical : canonical 0x00E0#16 = true ∧ canonical 0x0000#16 = false ∧ canonical 0xE49E#16 = true ∧
    canonical 0xE40E#16 = false ∧ canonical 0xE000#16 = false := by decide

/-! ## One step -/

/-- The reset state with the opcode `op` at `pc` and the inputs of the next step given. -/
def poised (pc : Word) (op : Nat) (keys : BitVec 16 := 0#16) (rnd : Byte := 0#8) : State :=
  ((State.reset.setPC pc).withFetchWord 16 op).present keys rnd

def withV (rs : List (Reg × Byte)) (s : State) : State := rs.foldl (fun s r => s.writeV r.1 r.2) s

def withSP (p : Fin 17) (s : State) : State := s.setStack s.stack p

def withLit (cells : List (Nat × Nat)) (s : State) : State :=
  s.setDisp (cells.foldl (fun d c => d.toggle c.2 c.1) s.disp)

/-- The cells (px, py) of a list. -/
def cells (at' : List (Nat × Nat)) (s : State) : List Bool := at'.map fun c => s.cell c.2 c.1

/-- What is to be seen of the state after one step. -/
def seen {α : Type} (f : State → α) (s : State) : Option α :=
  match step s with
  | .next t => some (f t)
  | .fault _ => none
  | .refused _ => none

/-- T1, T3. -/
theorem test_step_cls :
    seen (fun t => (t.pc, cells [(0, 0), (63, 31)] t))
      (withLit [(0, 0), (63, 31)] (poised 0x0200#16 0x0230)) =
      some (0x0202#16, [false, false]) := by decide

/-- T6. -/
theorem test_step_ret_pops :
    seen (fun t => (t.pc, t.sp, t.outcome))
      ((poised 0x0300#16 0x012E).setStack ((Vector.replicate 16 0x0204#16).set 1 0x1234#16) 2) =
      some (0x1234#16, 1, .ok) := by decide

/-- T7. -/
theorem test_step_ret_underflows :
    seen (fun t => (t.pc, t.sp, t.flt, t.outcome))
      (poised 0x0200#16 0x00EE) =
      some (0x0202#16, 0, some .stackUnderflow, .fault .stackUnderflow 0x0200#16 0x00EE#16) := by decide

/-- T8. -/
theorem test_step_jp : seen (fun t => t.pc) (poised 0x0200#16 0x1ABC) = some 0x0ABC#16 := by decide

/-- T11. -/
theorem test_step_call_pushes :
    seen (fun t => (t.pc, t.sp, t.stack[15]))
      (withSP 15 (poised 0x0FFE#16 0x2300)) =
      some (0x0300#16, 16, 0x1000#16) := by decide

/-- K29. -/
theorem test_step_call_overflows_and_timers_run :
    seen (fun t => (t.sp, t.flt, t.outcome, t.dt, t.tone))
      (((withSP 16 (poised 0x0200#16 0x2300)).setDT 2#8).setST 3#8) =
      some (16, some .stackOverflow, .fault .stackOverflow 0x0200#16 0x2300#16, 1#8, some 3#8) := by decide

/-- T14. -/
theorem test_step_jpV0 :
    seen (fun t => t.pc)
      (withV [(0, 0xFF#8)] (poised 0x0200#16 0xBFFF)) =
      some 0x10FE#16 := by decide

/-- T27. -/
theorem test_step_seImm_taken_across_the_top :
    seen (fun t => t.pc)
      (poised 0xFFFE#16 0x3000) =
      some 0x0002#16 := by decide

/-- T16. -/
theorem test_step_seImm_not_taken :
    seen (fun t => t.pc)
      (withV [(3, 0x2B#8)] (poised 0x0210#16 0x332A)) =
      some 0x0212#16 := by decide

/-- T18. -/
theorem test_step_sneImm_taken : seen (fun t => t.pc) (poised 0x0210#16 0x432A) = some 0x0214#16 := by decide

/-- T17. -/
theorem test_step_sneImm_not_taken :
    seen (fun t => t.pc)
      (withV [(3, 0x2A#8)] (poised 0x0210#16 0x432A)) =
      some 0x0212#16 := by decide

/-- T21. -/
theorem test_step_seReg_alias :
    seen (fun t => t.pc)
      (withV [(1, 0x07#8), (2, 0x07#8)] (poised 0x0300#16 0x5127)) =
      some 0x0304#16 := by decide

/-- T20. -/
theorem test_step_seReg_not_taken :
    seen (fun t => t.pc)
      (withV [(1, 0x07#8), (2, 0x08#8)] (poised 0x0300#16 0x5120)) =
      some 0x0302#16 := by decide

/-- T25. -/
theorem test_step_sneReg_alias :
    seen (fun t => t.pc)
      (withV [(1, 0x07#8), (2, 0x08#8)] (poised 0x0300#16 0x912F)) =
      some 0x0304#16 := by decide

/-- T24. -/
theorem test_step_sneReg_not_taken :
    seen (fun t => t.pc)
      (withV [(1, 0x07#8), (2, 0x07#8)] (poised 0x0300#16 0x9120)) =
      some 0x0302#16 := by decide

/-- A1. -/
theorem test_step_ldImm :
    seen (fun t => (t.pc, t.readV 10))
      (poised 0x0200#16 0x6A3C) =
      some (0x0202#16, 0x3C#8) := by decide

/-- A3. -/
theorem test_step_addImm_wraps_without_flag :
    seen (fun t => (t.pc, t.readV 3, t.readV 15))
      (withV [(3, 0xFF#8)] (poised 0x0200#16 0x7301)) =
      some (0x0202#16, 0x00#8, 0x00#8) := by decide

/-- A6. -/
theorem test_step_ldReg :
    seen (fun t => (t.pc, t.readV 1, t.readV 2))
      (withV [(2, 0x5A#8)] (poised 0x0200#16 0x8120)) =
      some (0x0202#16, 0x5A#8, 0x5A#8) := by decide

/-- A7. -/
theorem test_step_or :
    seen (fun t => (t.pc, t.readV 1, t.readV 2, t.readV 15))
      (withV [(1, 0xF0#8), (2, 0x0F#8), (15, 0x77#8)] (poised 0x0200#16 0x8121)) =
      some (0x0202#16, 0xFF#8, 0x0F#8, 0x77#8) := by decide

/-- A8. -/
theorem test_step_and :
    seen (fun t => (t.pc, t.readV 1, t.readV 2, t.readV 15))
      (withV [(1, 0xF0#8), (2, 0x3C#8), (15, 0x77#8)] (poised 0x0200#16 0x8122)) =
      some (0x0202#16, 0x30#8, 0x3C#8, 0x77#8) := by decide

/-- A9. -/
theorem test_step_xor :
    seen (fun t => (t.pc, t.readV 1, t.readV 2, t.readV 15))
      (withV [(1, 0xF0#8), (2, 0x3C#8), (15, 0x77#8)] (poised 0x0200#16 0x8123)) =
      some (0x0202#16, 0xCC#8, 0x3C#8, 0x77#8) := by decide

/-- A14. -/
theorem test_step_addReg_carry :
    seen (fun t => (t.pc, t.readV 1, t.readV 2, t.readV 15))
      (withV [(1, 0xFF#8), (2, 0x01#8)] (poised 0x0200#16 0x8124)) =
      some (0x0202#16, 0x00#8, 0x01#8, 0x01#8) := by decide

/-- A16. -/
theorem test_step_addReg_into_vf :
    seen (fun t => (t.pc, t.readV 15, t.readV 1))
      (withV [(15, 0x80#8), (1, 0x90#8)] (poised 0x0200#16 0x8F14)) =
      some (0x0202#16, 0x10#8, 0x90#8) := by decide

/-- A20. -/
theorem test_step_sub_borrow :
    seen (fun t => (t.pc, t.readV 1, t.readV 2, t.readV 15))
      (withV [(1, 0x03#8), (2, 0x05#8), (15, 0x01#8)] (poised 0x0200#16 0x8125)) =
      some (0x0202#16, 0xFE#8, 0x05#8, 0x00#8) := by decide

/-- A24. -/
theorem test_step_sub_of_vf :
    seen (fun t => (t.pc, t.readV 1, t.readV 15))
      (withV [(1, 0x05#8), (15, 0x03#8)] (poised 0x0200#16 0x81F5)) =
      some (0x0202#16, 0x04#8, 0x01#8) := by decide

/-- A30. -/
theorem test_step_shr_ignores_y :
    seen (fun t => (t.pc, t.readV 1, t.readV 2, t.readV 15))
      (withV [(1, 0x05#8), (2, 0xFF#8)] (poised 0x0200#16 0x8126)) =
      some (0x0202#16, 0x02#8, 0xFF#8, 0x01#8) := by decide

/-- A33. -/
theorem test_step_shr_of_vf :
    seen (fun t => (t.pc, t.readV 15))
      (withV [(15, 0x07#8)] (poised 0x0200#16 0x8F06)) =
      some (0x0202#16, 0x00#8) := by decide

/-- A35. -/
theorem test_step_subn_borrow :
    seen (fun t => (t.pc, t.readV 1, t.readV 2, t.readV 15))
      (withV [(1, 0x05#8), (2, 0x03#8), (15, 0x01#8)] (poised 0x0200#16 0x8127)) =
      some (0x0202#16, 0xFE#8, 0x03#8, 0x00#8) := by decide

/-- A37. -/
theorem test_step_subn_of_vf :
    seen (fun t => (t.pc, t.readV 1, t.readV 15))
      (withV [(1, 0x03#8), (15, 0x09#8)] (poised 0x0200#16 0x81F7)) =
      some (0x0202#16, 0xFE#8, 0x01#8) := by decide

/-- A43. -/
theorem test_step_shl_ignores_y :
    seen (fun t => (t.pc, t.readV 1, t.readV 2, t.readV 15))
      (withV [(1, 0x40#8), (2, 0xFF#8), (15, 0x01#8)] (poised 0x0200#16 0x812E)) =
      some (0x0202#16, 0x80#8, 0xFF#8, 0x00#8) := by decide

/-- A45. -/
theorem test_step_shl_of_vf :
    seen (fun t => (t.pc, t.readV 15))
      (withV [(15, 0x81#8)] (poised 0x0200#16 0x8F0E)) =
      some (0x0202#16, 0x02#8) := by decide

/-- A47. -/
theorem test_step_rnd :
    seen (fun t => (t.pc, t.readV 3))
      (poised 0x0200#16 0xC30F 0x0000#16 0xA7#8) =
      some (0x0202#16, 0x07#8) := by decide

/-- M2. -/
theorem test_step_ldI : seen (fun t => t.i) (poised 0x0200#16 0xAFFF) = some 0x0FFF#16 := by decide

/-- M4. -/
theorem test_step_addI_past_the_address_range :
    seen (fun t => (t.i, t.readV 15))
      ((withV [(1, 0x01#8)] (poised 0x0200#16 0xF11E)).setI 0x0FFF#16) =
      some (0x1000#16, 0x00#8) := by decide

/-- M10. -/
theorem test_step_ldF_without_mask :
    seen (fun t => t.i)
      (withV [(2, 0xFF#8)] (poised 0x0200#16 0xF229)) =
      some 0x054B#16 := by decide

/-- M11. -/
theorem test_step_ldB :
    seen (fun t => (t.memRead1 0x300, t.memRead1 0x301, t.memRead1 0x302))
      ((withV [(0, 0x9D#8)] (poised 0x0200#16 0xF033)).setI 0x0300#16) =
      some (1#8, 5#8, 7#8) := by decide

/-- M15. -/
theorem test_step_ldB_wraps :
    seen (fun t => (t.i, t.memRead1 0xFFE, t.memRead1 0xFFF, t.memRead1 0x000))
      (((withV [(0, 0x64#8)] (poised 0x0200#16 0xF033)).setI 0x0FFE#16).memWriteAll 0xFFE [9#8, 9#8, 9#8]) =
      some (0x0FFE#16, 1#8, 0#8, 0#8) := by decide

/-- M16. -/
theorem test_step_stRegs :
    seen (fun t => (t.i, t.memRead1 0x300, t.memRead1 0x301, t.memRead1 0x302, t.memRead1 0x303))
      ((withV [(0, 0x01#8), (1, 0x05#8), (2, 0x07#8), (3, 0xEE#8)] (poised 0x0200#16 0xF255)).setI 0x0300#16) =
      some (0x0300#16, 1#8, 5#8, 7#8, 0#8) := by decide

/-- M18. -/
theorem test_step_stRegs_wraps :
    seen (fun t => (t.memRead1 0xFFF, t.memRead1 0x000))
      ((withV [(0, 0x11#8), (1, 0x22#8)] (poised 0x0200#16 0xF155)).setI 0x0FFF#16) =
      some (0x11#8, 0x22#8) := by decide

/-- M20. -/
theorem test_step_ldRegs :
    seen (fun t => (t.readV 0, t.readV 1, t.readV 2, t.readV 3))
      (((withV [(3, 0x33#8)] (poised 0x0200#16 0xF265)).setI 0x0300#16).memWriteAll 0x300 [1#8, 5#8, 7#8, 0x99#8]) =
      some (1#8, 5#8, 7#8, 0x33#8) := by decide

/-- M21. -/
theorem test_step_ldRegs_wraps :
    seen (fun t => (t.readV 0, t.readV 1))
      (((poised 0x0200#16 0xF165).setI 0xFFFF#16).memWriteAll 0xFFF [0xAA#8, 0xBB#8]) =
      some (0xAA#8, 0xBB#8) := by decide

/-- program P4, its fifth step. -/
theorem test_step_drw_clips :
    seen (fun t => (t.readV 15, cells [(62, 30), (63, 30), (62, 31), (63, 31), (0, 30), (62, 0)] t))
      ((withV [(1, 0x3E#8), (2, 0x1E#8)] (poised 0x0208#16 0xD125)).setI 0x0050#16) =
      some (0#8, [true, true, true, false, false, false]) := by decide

/-- G10. -/
theorem test_step_drw_collides :
    seen (fun t => (t.readV 15, cells [(3, 3), (4, 3)] t))
      (withLit [(3, 3)] (((withV [(0, 0x03#8), (15, 0x23#8)] (poised 0x0200#16 0xD0F1)).setI 0x0300#16).memWriteAll 0x300 [0x80#8])) =
      some (1#8, [false, false]) := by decide

/-- K5. -/
theorem test_step_skp :
    seen (fun t => t.pc)
      (withV [(4, 0x1A#8)] (poised 0x0220#16 0xE49E 0x0400#16)) =
      some 0x0224#16 := by decide

/-- K2. -/
theorem test_step_skp_not_pressed :
    seen (fun t => t.pc)
      (withV [(4, 0x0A#8)] (poised 0x0220#16 0xE49E)) =
      some 0x0222#16 := by decide

/-- K6. -/
theorem test_step_sknp :
    seen (fun t => t.pc)
      (withV [(4, 0xFF#8)] (poised 0x0220#16 0xE4A1 0x8000#16)) =
      some 0x0222#16 := by decide

/-- K4. -/
theorem test_step_sknp_not_pressed :
    seen (fun t => t.pc)
      (withV [(4, 0x0A#8)] (poised 0x0220#16 0xE4A1)) =
      some 0x0224#16 := by decide

/-- K16. -/
theorem test_step_ldVxDt :
    seen (fun t => (t.readV 2, t.dt))
      ((poised 0x0200#16 0xF207).setDT 5#8) =
      some (5#8, 4#8) := by decide

/-- K15. -/
theorem test_step_ldVxK_waits :
    seen (fun t => (t.pc, t.readV 3))
      (poised 0xFFFE#16 0xF30A) =
      some (0xFFFE#16, 0#8) := by decide

/-- K11. -/
theorem test_step_ldVxK_takes_the_least :
    seen (fun t => (t.pc, t.readV 3))
      (withV [(3, 0x77#8)] (poised 0x0230#16 0xF30A 0x0088#16)) =
      some (0x0232#16, 3#8) := by decide

/-- K20. -/
theorem test_step_ldDtVx :
    seen (fun t => t.dt)
      (withV [(2, 0x01#8)] (poised 0x0200#16 0xF215)) =
      some 0#8 := by decide

/-- K21. -/
theorem test_step_ldStVx :
    seen (fun t => (t.st, t.tone))
      (withV [(2, 0x0A#8)] (poised 0x0200#16 0xF218)) =
      some (0#8, some 10#8) := by decide

/-- K25. -/
theorem test_step_ldStVx_zero :
    seen (fun t => (t.st, t.tone))
      ((withV [(2, 0x00#8)] (poised 0x0200#16 0xF218)).setST 10#8) =
      some (0#8, none) := by decide

/-- K26. -/
theorem test_step_nop :
    seen (fun t => (t.pc, t.dt, t.outcome))
      ((poised 0x0200#16 0xE000).setDT 1#8) =
      some (0x0202#16, 0#8, .ok) := by decide

/-- K24. -/
theorem test_step_ldImm_with_forced_timers :
    seen (fun t => (t.dt, t.st, t.tone))
      (((poised 0x0200#16 0x6000).setDT 10#8).setST 10#8) =
      some (9#8, 0#8, some 10#8) := by decide

/-! ## The ports (rows L2, L4, L5) -/

theorem test_load : (load [0x12#8, 0x00#8] State.reset).1 = .ok ∧
    (load [0x12#8, 0x00#8] State.reset).2.memRead1 0x200 = 0x12#8 ∧
    (load [0x12#8, 0x00#8] State.reset).2.mem.length = 1 := by decide

theorem test_load_of_too_many_bytes (s : State) :
    load (List.replicate 3585 0#8) s = (.loadError, s) :=
  if_neg (by rw [List.length_replicate]; decide)

/-! ## Every obligation with hypotheses has a case that meets them

A row's hypothesis, that an opcode matches the row, is met by the row's own match value. -/

theorem witness_RowDecodes :
    (opcodeRowsLow ++ opcodeRowsHigh).all (fun r => r.m &&& r.mask == r.m) = true := by decide

/-- An opcode of each no-operation family, and one that is none. -/
theorem witness_NoOperationOnlyAdvances :
    isNopWord 0x0231#16 = true ∧ isNopWord 0x8128#16 = true ∧ isNopWord 0xE000#16 = true ∧ isNopWord 0xF075#16 = true ∧
    isNopWord 0x5001#16 = false ∧ (poised 0x0200#16 0xE000).current = .nop 0xE000#16 := by decide

/-- The machine of another fontset, reset anew after a store to a glyph. -/
theorem witness_ResetGivesTheResetTable :
    let font : Fontset := Vector.replicate 80 0x3C#8
    let r := resetRequest font ((State.resetWith font).memWrite 0x050 0x00#8)
    (r.memRead1 0x04F = 0x00#8 ∧ r.memRead1 0x050 = 0x3C#8 ∧ font[0] = 0x3C#8) ∧
    (r.memRead1 0x09F = 0x3C#8 ∧ r.memRead1 0x0A0 = 0x00#8 ∧ r.memRead1 0xFFF = 0x00#8) := by decide +kernel

/-- Row M22, the first and the last byte of the default table. -/
theorem test_default_fontset : State.reset.memRead1 0x050 = 0xF0#8 ∧ State.reset.memRead1 0x09F = 0x80#8 ∧
    State.reset.memRead1 0x04F = 0x00#8 ∧ State.reset.memRead1 0x0A0 = 0x00#8 := by decide

theorem test_reset_request : resetRequest defaultFontset (poised 0x0300#16 0x1200) = State.reset.present 0#16 0#8 := by
  decide

theorem witness_LoadWritesTheRomOrNothing :
    (List.replicate 3584 0x12#8).length ≤ 3584 ∧ 3584 < (List.replicate 3585 0x12#8).length :=
  ⟨by rw [List.length_replicate], by rw [List.length_replicate]; decide⟩

theorem witness_LoadTouchesOnlyTheBytesSupplied :
    memIndex 0x1FF < 0x200 ∧ 0x200 + ([0x12#8, 0x00#8] : List Byte).length ≤ memIndex 0x202 ∧
    ¬(memIndex 0x201 < 0x200 ∨ 0x200 + ([0x12#8, 0x00#8] : List Byte).length ≤ memIndex 0x201) := by decide

theorem witness_CanonicalMemoriesWithEqualBytesAreEqual :
    Memory.wf [(0x050, 0x00#8), (0xFFF, 0x01#8)] = true ∧
    (Memory.set (Memory.set [] 0xFFF 0x01#8) 0x050 0x00#8) = [(0x050, 0x00#8), (0xFFF, 0x01#8)] ∧
    Memory.wf [(0x050, 0xF0#8)] = false ∧ Memory.wf [(0x300, 1#8), (0x200, 1#8)] = false ∧
    Memory.wf [(0x1000, 1#8)] = false := by decide

theorem witness_StepRunsTheDecodedInstruction :
    decode (poised 0x0FFF#16 0x6A3C).bytesAtPC = .ok (.ldImm 10 0x3C#8, []) ∧ (Instr.ldImm 10 0x3C#8).wf = true :=
  ⟨rfl, rfl⟩

/-- A state in which a fault has been reported meets the invariant as well. -/
theorem witness_StepKeepsTheInvariant :
    ((poised 0x0200#16 0x6A3C).Inv ∧ ∃ t, step (poised 0x0200#16 0x6A3C) = .next t) ∧
    ((poised 0x0200#16 0x6A3C).raise .stackOverflow).Inv ∧
    ∃ t, step ((poised 0x0200#16 0x6A3C).raise .stackOverflow) = .next t :=
  ⟨⟨⟨by decide, by decide, by decide⟩, _, rfl⟩, ⟨by decide, by decide, by decide⟩, _, rfl⟩

/-- Each clause: a cause already latched, no fault, a first overflow, a first underflow. -/
theorem witness_FaultLatchKeepsTheFirstCause :
    seen (fun t => (t.flt, t.outcome)) ((poised 0x0200#16 0x00EE).setFault (some .stackOverflow) .ok) =
      some (some .stackOverflow, .fault .stackUnderflow 0x0200#16 0x00EE#16) ∧
    seen (fun t => (t.flt, t.outcome)) (poised 0x0200#16 0x6A3C) = some (none, .ok) ∧
    seen (fun t => (t.flt, t.outcome)) (withSP 16 (poised 0x0200#16 0x2300)) =
      some (some .stackOverflow, .fault .stackOverflow 0x0200#16 0x2300#16) ∧
    seen (fun t => (t.flt, t.outcome)) (poised 0x0200#16 0x00EE) =
      some (some .stackUnderflow, .fault .stackUnderflow 0x0200#16 0x00EE#16) := by decide

/-- Each clause: no write of DT, a nonzero and a zero write, a read (K26, K18, K19, K16). -/
theorem witness_DelayTimerCountsSteps :
    ((poised 0x0200#16 0xE000).current = .nop 0xE000#16 ∧ seen State.dt ((poised 0x0200#16 0xE000).setDT 1#8) = some 0#8) ∧
    ((withV [(2, 1#8)] (poised 0x0200#16 0xF215)).current = .ldDtVx 2 ∧
      seen State.dt (withV [(2, 0x0A#8)] (poised 0x0200#16 0xF215)) = some 9#8) ∧
    seen State.dt ((poised 0x0200#16 0xF215).setDT 7#8) = some 0#8 ∧
    ((poised 0x0200#16 0xF207).current = .ldVxDt 2 ∧
      seen (fun t => t.readV 2) ((poised 0x0200#16 0xF207).setDT 5#8) = some 5#8) := by decide

/-- Both clauses, with and without a tone (K23, K22, K24). -/
theorem witness_SoundTimerFiresOnceAndIsZeroed :
    (poised 0x0200#16 0xF218).current = .ldStVx 2 ∧
    seen State.tone (withV [(2, 0xFF#8)] (poised 0x0200#16 0xF218)) = some (some 255#8) ∧
    seen State.tone (poised 0x0200#16 0xF218) = some none ∧
    (poised 0x0200#16 0x6000).current = .ldImm 0 0#8 ∧
    seen State.tone ((poised 0x0200#16 0x6000).setST 10#8) = some (some 10#8) ∧
    seen State.tone (poised 0x0200#16 0x6000) = some none := by decide

theorem witness_InstructionsTouchOnlyTheirParts (s : State) :
    ∃ t, exec (.drw 0 1 5#4) s = .next t ∧ Part.mem ∉ writes (.drw 0 1 5#4) := ⟨_, rfl, by decide⟩

theorem witness_RegistersChangeOnlyWhereNamed (s : State) :
    ∃ t, exec (.addReg 1 2) s = .next t ∧ (2 : Reg) ∉ destRegs (.addReg 1 2) := ⟨_, rfl, by decide⟩

theorem witness_InputsInfluenceOnlyTheirReaders (s : State) :
    (∃ t, exec (.rnd 1 0x0F#8) s = .next t ∧ readsKeys (.rnd 1 0x0F#8) = false) ∧
    (∃ t, exec (.skp 1 0x9#4) s = .next t ∧ readsRnd (.skp 1 0x9#4) = false) := ⟨⟨_, rfl, rfl⟩, ⟨_, rfl, rfl⟩⟩

/-- One entry in use, the others changed: a return, which reads the entry in use. -/
theorem witness_StaleStackEntriesAreUnreadable :
    let s := withSP 1 State.reset
    let k := (Vector.replicate 16 0x1234#16).set 0 0#16
    (∃ t, exec (.ret 0x0E#8) s = .next t) ∧ (∀ (j : Nat) (h : j < 16), j < s.sp.val → k[j] = s.stack[j]) ∧
      k ≠ s.stack := by
  refine ⟨⟨_, rfl⟩, fun j h hj => ?_, by decide⟩
  have : j = 0 := Nat.lt_one_iff.mp hj
  subst this; rfl

/-- T9. -/
theorem witness_JumpSetsPC :
    (poised 0x0200#16 0x1200).current = .jp 0x200#12 ∧ (poised 0x0200#16 0x1200).pc.toNat = (0x200#12 : Addr).toNat := by
  decide

theorem witness_CallPushesTheAdvancedPC : (withSP 0 State.reset).sp.val < 16 ∧ (withSP 15 State.reset).sp.val < 16 := by
  decide

theorem witness_CallOnAFullStackFaults : (withSP 16 State.reset).sp.val = 16 := by decide

theorem witness_ReturnPopsIntoPC : 0 < (withSP 1 State.reset).sp.val ∧ 0 < (withSP 16 State.reset).sp.val := by decide

theorem witness_ReturnOnAnEmptyStackFaults : State.reset.sp.val = 0 := by decide

/-- The deepest call there is, and a subroutine that changed a register. -/
theorem witness_ReturnResumesAfterTheCall :
    (withSP 15 State.reset).sp.val < 16 ∧
    ∃ t, exec (.call 0x300#12) (withSP 15 State.reset) = .next t ∧ (t.writeV 0 7#8).stack = t.stack ∧
      (t.writeV 0 7#8).sp = t.sp := ⟨by decide, _, rfl, rfl, rfl⟩

/-- Each skip, its condition true in one state and false in another. -/
theorem witness_SkipStepLeavesPCTwoOrFourOn :
    ([0x3000, 0x4001, 0x5010, 0x9020, 0xE0A1].all fun op =>
      decide (skipCondition (withV [(2, 7#8)] (poised 0x0200#16 op)).begin
        (withV [(2, 7#8)] (poised 0x0200#16 op)).current = some true)) = true ∧
    ([0x3001, 0x4000, 0x5020, 0x9010, 0xE09E].all fun op =>
      decide (skipCondition (withV [(2, 7#8)] (poised 0x0200#16 op)).begin
        (withV [(2, 7#8)] (poised 0x0200#16 op)).current = some false)) = true ∧
    skipCondition (poised 0x0200#16 0xE09E 0x0001#16).begin (poised 0x0200#16 0xE09E).current = some true ∧
    skipCondition (poised 0x0200#16 0xE0A1 0x0001#16).begin (poised 0x0200#16 0xE0A1).current = some false := by decide

/-- The clauses on VF as destination and as operand. -/
theorem witness_AddRegisterSetsCarry : (1 : Reg) ≠ Reg.vf ∧ (15 : Reg) = Reg.vf := by decide

/-- The four cases of VF as destination or operand are exclusive and cover all forms. -/
theorem witness_SubtractionsSetGreaterThan :
    ((1 : Reg) ≠ Reg.vf ∧ (2 : Reg) ≠ Reg.vf) ∧ ((1 : Reg) ≠ Reg.vf ∧ (15 : Reg) = Reg.vf) ∧
    ((15 : Reg) = Reg.vf ∧ (2 : Reg) ≠ Reg.vf) ∧ ((15 : Reg) = Reg.vf ∧ (15 : Reg) = Reg.vf) := by decide

theorem witness_ShiftsSetTheBitShiftedOut : (0 : Reg) ≠ Reg.vf ∧ (15 : Reg) = Reg.vf := by decide

/-- The digits wrap from 0xFFE; the bytes on both sides are other bytes. -/
theorem witness_DecimalDigitsAreStored :
    let s := State.reset.setI 0x0FFE#16
    s.ea 0 = 0xFFE ∧ s.ea 1 = 0xFFF ∧ s.ea 2 = 0x000 ∧
    (∀ a ∈ [0xFFD, 0x001], memIndex a ≠ s.ea 0 ∧ memIndex a ≠ s.ea 1 ∧ memIndex a ≠ s.ea 2) := by decide

/-- The smallest and the largest prefix. -/
theorem witness_StoreRegistersWritesThePrefix :
    let s := State.reset.setI 0x0FFF#16
    ((0 : Reg) ≤ 0 ∧ s.ea 0 = 0xFFF ∧ ∀ k : Reg, k ≤ 0 → memIndex 0x000 ≠ s.ea k.val) ∧
    ((15 : Reg) ≤ 15 ∧ s.ea 15 = 0x00E ∧ ∀ k : Reg, k ≤ 15 → memIndex 0x00F ≠ s.ea k.val) := by decide

theorem witness_LoadRegistersReadsThePrefix :
    ((0 : Reg) ≤ 0 ∧ (0 : Reg) < 1) ∧ ((15 : Reg) ≤ 15 ∧ (14 : Reg) < 15) := by decide

/-- The registers changed between the store and the load (M16, M20). -/
theorem witness_StoreThenLoadRestoresRegisters :
    ∃ t, exec (.stRegs 2) (State.reset.setI 0x0300#16) = .next t ∧ (t.writeV 0 7#8).i = 0x0300#16 ∧
      ∀ k : Reg, k ≤ 2 → (t.writeV 0 7#8).memRead1 ((State.reset.setI 0x0300#16).ea k.val) =
        t.memRead1 ((State.reset.setI 0x0300#16).ea k.val) := ⟨_, rfl, rfl, fun _ _ => rfl⟩

/-- A corner cell covered with a set bit, lit in one state, and cells not covered (G4). -/
theorem witness_DrawTogglesTheCoveredCells :
    let s := (State.reset.setI 0x0300#16).memWriteAll 0x300 [0xC0#8]
    (onGrid 31 63 ∧ s.spriteCovers 63 31 1 31 63) ∧ (onGrid 0 0 ∧ ¬s.spriteCovers 63 31 1 0 0) ∧
    (withLit [(63, 31)] s).cell 31 63 = true ∧ ¬onGrid 31 64 ∧ ¬onGrid 32 63 := by
  unfold onGrid State.spriteCovers; decide

/-- A sprite with set bits on the grid: origin registers that are not VF, an origin in VF that the draw leaves as it
was, and a clear display (G1, G2). -/
theorem witness_DrawingTwiceRestoresTheDisplay :
    let s := (State.reset.setI 0x0300#16).memWriteAll 0x300 [0xC0#8]
    (∃ t u, exec (.drw 0 1 1#4) s = .next t ∧ exec (.drw 0 1 1#4) t = .next u ∧
      ((0 : Reg) ≠ Reg.vf ∧ (1 : Reg) ≠ Reg.vf) ∧ t.cell 0 1 = true ∧ u.readV Reg.vf = 1#8) ∧
    (∃ t u, exec (.drw 15 1 1#4) s = .next t ∧ exec (.drw 15 1 1#4) t = .next u ∧
      t.readV Reg.vf = s.readV Reg.vf) ∧
    (∀ py px : Nat, s.cell py px = false) ∧ onGrid 0 1 ∧
    s.spriteCovers ((s.readV 0).toNat % 64) ((s.readV 1).toNat % 32) (1#4 : Nibble).toNat 0 1 :=
  ⟨⟨_, _, rfl, rfl, by decide, by decide, by decide⟩, ⟨_, _, rfl, rfl, by decide⟩, Display.lit_blank, ⟨by decide, by decide⟩,
    by unfold State.spriteCovers; decide⟩

/-- No key, the least key 0, the least key 15. -/
theorem witness_KeyWaitTakesTheLeastKey :
    State.reset.keys = 0#16 ∧ (0x8001#16 : BitVec 16).getLsbD 0 = true ∧
    ((0x8000#16 : BitVec 16).getLsbD 15 = true ∧ ∀ j, j < 15 → (0x8000#16 : BitVec 16).getLsbD j = false) := by decide

/-- K14. -/
theorem witness_WaitingStepChangesOnlyTimers :
    (poised 0x0230#16 0xF30A).current = .ldVxK 3 ∧ (poised 0x0230#16 0xF30A).nextInput.keys = 0#16 := by decide

/-- K16, K17. -/
theorem witness_DelayTimerIsReadBeforeTheDecrement :
    (poised 0x0200#16 0xF207).current = .ldVxDt 2 ∧ ((poised 0x0200#16 0xF207).setDT 5#8).dt ≠ 0#8 ∧
    (poised 0x0200#16 0xF207).dt = 0#8 := by decide

theorem witness_DecodeOfEncodeGivesTheInstructionBack :
    (Instr.nop 0xFFFF#16).wf = true ∧ (Instr.drw 15 15 0xF#4).wf = true := by decide

/-- Three aliases and a canonical opcode. -/
theorem witness_AliasesExecuteAsTheCanonicalEncoding :
    ∀ op ∈ [0x0230#16, 0x5001#16, 0xE401#16, 0x00E0#16], ∀ w, decodeWord op ≠ .nop w := by
  intro op h w
  simp only [List.mem_cons, List.not_mem_nil, or_false] at h
  rcases h with rfl | rfl | rfl | rfl <;> exact fun e => Instr.noConfusion e

end Sys2Proof.Tests
end

section
/-! PROOF. The statements of 10_state.md. First what one handler can do to the state, once for each question: which
parts it touches (R47), what becomes of memory, when it raises a fault, and that it does not see the parts it does not
read. Then what a step can do, and the obligations. -/

namespace Sys2Proof.Machine

/-! ## Frames of the handlers that are more than one update -/

theorem keepsExcept_writeFlag_writeV (s : State) (c : Bool) (x : Reg) (b : Byte) :
    KeepsExcept [.regs] s ((s.writeFlag c).writeV x b) :=
  (keepsExcept_writeFlag s c).trans (keepsExcept_writeV _ x b)

theorem keepsExcept_setStack_setPC (s : State) (k : Vector Word 16) (p : Fin 17) (a : Word) :
    KeepsExcept [.pc, .stack] s ((s.setStack k p).setPC a) :=
  ((keepsExcept_setStack s k p).mono (by decide)).trans ((keepsExcept_setPC _ a).mono (by decide))

theorem keepsExcept_setDisp_writeFlag (s : State) (d : Display) (c : Bool) :
    KeepsExcept [.disp, .regs] s ((s.setDisp d).writeFlag c) :=
  ((keepsExcept_setDisp s d).mono (by decide)).trans ((keepsExcept_writeFlag _ c).mono (by decide))

theorem keepsExcept_call (s : State) (a : Word) : KeepsExcept [.pc, .stack, .flt, .outcome] s (s.call a) := by
  rcases s.call_cases a with ⟨_, e⟩ | ⟨_, e⟩ <;> rw [e]
  · exact (keepsExcept_raise s _).mono (by decide)
  · exact (keepsExcept_setStack_setPC s _ _ _).mono (by decide)

theorem keepsExcept_ret (s : State) : KeepsExcept [.pc, .stack, .flt, .outcome] s s.ret := by
  rcases s.ret_cases with ⟨_, e⟩ | ⟨_, _, _, e⟩ <;> rw [e]
  · exact (keepsExcept_raise s _).mono (by decide)
  · exact (keepsExcept_setStack_setPC s _ _ _).mono (by decide)

theorem keepsExcept_waitKey (s : State) (x : Reg) : KeepsExcept [.regs, .pc] s (s.waitKey x) := by
  rcases s.waitKey_cases x with ⟨_, e⟩ | ⟨_, _, _, _, e⟩ <;> rw [e]
  · exact (keepsExcept_setPC s _).mono (by decide)
  · exact (keepsExcept_writeV s x _).mono (by decide)

/-- The handler of an instruction touches the parts listed for it only (10_state.md R47). -/
theorem exec_keepsExcept {i : Instr} {s t : State} (h : exec i s = .next t) : KeepsExcept (writes i) s t := by
  cases i <;> cases h
  case cls => exact keepsExcept_setDisp s _
  case ret => exact keepsExcept_ret s
  case call => exact keepsExcept_call s _
  case jp | jpV0 => exact keepsExcept_setPC s _
  case seImm | sneImm | seReg | sneReg | skp | sknp => exact keepsExcept_skipIf s _
  case ldImm | addImm | ldReg | or | and | xor | rnd | ldVxDt => exact keepsExcept_writeV s _ _
  case addReg | sub | shr | subn | shl => exact keepsExcept_writeFlag_writeV s _ _ _
  case ldRegs => exact keepsExcept_loadRegs s _
  case ldVxK => exact keepsExcept_waitKey s _
  case ldI | addI | ldF => exact keepsExcept_setI s _
  case drw => exact keepsExcept_setDisp_writeFlag s _ _
  case ldDtVx => exact keepsExcept_setDT s _
  case ldStVx => exact keepsExcept_setST s _
  case ldB | stRegs => exact keepsExcept_memWriteAll s _ _
  case nop => exact KeepsExcept.refl _ s

/-! ## The registers a handler writes -/

theorem regsExcept_writeFlag_writeV (s : State) (c : Bool) (x : Reg) (b : Byte) :
    RegsExcept [x, Reg.vf] s ((s.writeFlag c).writeV x b) := by
  intro r hr
  obtain ⟨hx, hvf⟩ : r ≠ x ∧ r ≠ Reg.vf := by simpa using hr
  rw [State.readV_writeV_ne _ b hx, State.readV_writeFlag, if_neg hvf]

theorem regsExcept_waitKey (s : State) (x : Reg) : RegsExcept [x] s (s.waitKey x) := by
  rcases s.waitKey_cases x with ⟨_, e⟩ | ⟨_, _, _, _, e⟩ <;> rw [e]
  · exact fun _ _ => rfl
  · exact regsExcept_writeV s x _

theorem regsExcept_loadRegs (s : State) (ks : List Reg) : RegsExcept ks s (s.loadRegs ks) :=
  fun r hr => by rw [State.readV_loadRegs, if_neg hr]

/-- A handler writes the registers that its instruction names or writes as a flag only (10_state.md R22). Where the
register file is no part the instruction touches, that is its frame. -/
theorem exec_regsExcept {i : Instr} {s t : State} (h : exec i s = .next t) : RegsExcept (destRegs i) s t := by
  have frame : Part.regs ∉ writes i → RegsExcept (destRegs i) s t := fun hp r _ => exec_keepsExcept h .regs hp r
  cases i
  case ldImm | addImm | ldReg | or | and | xor | rnd | ldVxDt => cases h; exact regsExcept_writeV s _ _
  case addReg | sub | shr | subn | shl => cases h; exact regsExcept_writeFlag_writeV s _ _ _
  case ldVxK => cases h; exact regsExcept_waitKey s _
  case drw => cases h; exact regsExcept_writeV _ Reg.vf _
  case ldRegs => cases h; exact regsExcept_loadRegs s _
  all_goals exact frame (by simp [writes])

/-! ## Memory as data

The frame compares memory by its reads; the invariant speaks of the list that represents it. -/

@[simp] theorem State.skipIf_mem (s : State) (c : Bool) : (s.skipIf c).mem = s.mem := by rw [State.skipIf_eq]; rfl

@[simp] theorem State.loadRegs_mem (s : State) (ks : List Reg) : (s.loadRegs ks).mem = s.mem := by
  rw [State.loadRegs_eq]; rfl

@[simp] theorem State.call_mem (s : State) (a : Word) : (s.call a).mem = s.mem := by
  rcases s.call_cases a with ⟨_, e⟩ | ⟨_, e⟩ <;> rw [e] <;> rfl

@[simp] theorem State.ret_mem (s : State) : s.ret.mem = s.mem := by
  rcases s.ret_cases with ⟨_, e⟩ | ⟨_, _, _, e⟩ <;> rw [e] <;> rfl

@[simp] theorem State.waitKey_mem (s : State) (x : Reg) : (s.waitKey x).mem = s.mem := by
  rcases s.waitKey_cases x with ⟨_, e⟩ | ⟨_, _, _, _, e⟩ <;> rw [e] <;> rfl

/-- A handler leaves the memory as it is, or stores consecutive bytes. -/
theorem exec_mem_cases {i : Instr} {s t : State} (h : exec i s = .next t) :
    t.mem = s.mem ∨ ∃ a bs, t = s.memWriteAll a bs := by
  cases i <;> cases h
  case ldB | stRegs => exact .inr ⟨_, _, rfl⟩
  all_goals exact .inl (by simp)

theorem exec_keeps_mem_wf {i : Instr} {s t : State} (h : exec i s = .next t) (hs : s.mem.wf = true) :
    t.mem.wf = true := by
  rcases exec_mem_cases h with e | ⟨a, bs, rfl⟩
  · rwa [e]
  · exact s.memWriteAll_wf a bs hs

/-! ## Faults -/

/-- The two conditions under which an instruction faults (60_exceptions.md R221, R222). -/
def FaultsWith (i : Instr) (s : State) (c : FaultCause) : Prop :=
  (c = .stackOverflow ∧ s.sp.val = 16 ∧ ∃ nnn, i = .call nnn) ∨
  (c = .stackUnderflow ∧ s.sp.val = 0 ∧ ∃ m, i = .ret m)

/-- A handler raises a fault under one of the two conditions and does nothing else, or it leaves the latch and the
report alone. -/
theorem exec_fault_cases {i : Instr} {s t : State} (h : exec i s = .next t) :
    (t.flt = s.flt ∧ t.outcome = s.outcome) ∨ ∃ c, FaultsWith i s c ∧ t = s.raise c := by
  cases i
  case call nnn =>
    cases h
    rcases s.call_cases (addrWord nnn) with ⟨hsp, e⟩ | ⟨_, e⟩
    · exact .inr ⟨_, .inl ⟨rfl, hsp, nnn, rfl⟩, e⟩
    · exact .inl (by rw [e]; exact ⟨rfl, rfl⟩)
  case ret m =>
    cases h
    rcases s.ret_cases with ⟨hsp, e⟩ | ⟨_, _, _, e⟩
    · exact .inr ⟨_, .inr ⟨rfl, hsp, m, rfl⟩, e⟩
    · exact .inl (by rw [e]; exact ⟨rfl, rfl⟩)
  all_goals exact .inl ⟨exec_keepsExcept h .flt (by simp [writes]), exec_keepsExcept h .outcome (by simp [writes])⟩

/-! ## The parts a handler does not see -/

/-- `s` with other inputs and other stack entries. -/
def State.overlay (keys : BitVec 16) (rnd : Byte) (k : Vector Word 16) (s : State) : State :=
  (s.setSample keys rnd).setStack k s.sp

section overlay
variable (keys : BitVec 16) (rnd : Byte) (k : Vector Word 16) (s : State)

theorem State.overlay_stack : s.overlay keys rnd s.stack = s.setSample keys rnd := rfl

theorem State.overlay_sample : s.overlay s.keys s.rnd k = s.setStack k s.sp := rfl

theorem State.overlay_skipIf (c : Bool) : (s.overlay keys rnd k).skipIf c = (s.skipIf c).overlay keys rnd k := by
  cases c <;> rfl

theorem State.overlay_memWriteAll (a : Nat) (bs : List Byte) :
    (s.overlay keys rnd k).memWriteAll a bs = (s.memWriteAll a bs).overlay keys rnd k := by
  induction bs generalizing s a with
  | nil => rfl
  | cons b bs ih => exact ih (s.memWrite a b) (a + 1)

theorem State.overlay_loadRegs (ks : List Reg) :
    (s.overlay keys rnd k).loadRegs ks = (s.loadRegs ks).overlay keys rnd k := by
  induction ks generalizing s with
  | nil => rfl
  | cons q ks ih => exact ih (s.writeV q (s.memRead1 (s.ea q.val)))

theorem State.overlay_waitKey (x : Reg) :
    (s.overlay s.keys rnd k).waitKey x = (s.waitKey x).overlay s.keys rnd k := by
  have e : (s.overlay s.keys rnd k).firstKey = s.firstKey := rfl
  rw [State.waitKey, State.waitKey, e]
  cases s.firstKey <;> rfl

end overlay

/-- Apart from call and return, a handler sees no stack entry, and of the inputs those it reads only. -/
theorem exec_overlay {i : Instr} {s t : State} {keys : BitVec 16} {rnd : Byte} (k : Vector Word 16)
    (h : exec i s = .next t) (hi : Part.stack ∉ writes i) (hkeys : readsKeys i = true → keys = s.keys)
    (hrnd : readsRnd i = true → rnd = s.rnd) :
    exec i (s.overlay keys rnd k) = .next (t.overlay keys rnd k) := by
  cases i <;> cases h
  case call | ret => exact absurd hi (by simp [writes])
  case skp | sknp => cases hkeys rfl; exact congrArg _ (State.overlay_skipIf _ rnd k s _)
  case ldVxK => cases hkeys rfl; exact congrArg _ (State.overlay_waitKey rnd k s _)
  case rnd => cases hrnd rfl; rfl
  case seImm | sneImm | seReg | sneReg => exact congrArg _ (State.overlay_skipIf keys rnd k s _)
  case ldB | stRegs => exact congrArg _ (State.overlay_memWriteAll keys rnd k s _ _)
  case ldRegs => exact congrArg _ (State.overlay_loadRegs keys rnd k s _)
  all_goals rfl

/-! ## Other inputs -/

theorem State.call_setSample (s : State) (a : Word) (keys : BitVec 16) (rnd : Byte) :
    (s.setSample keys rnd).call a = (s.call a).setSample keys rnd := by
  by_cases hsp : s.sp.val < 16 <;> simp [State.call, State.push, hsp] <;> rfl

theorem State.ret_setSample (s : State) (keys : BitVec 16) (rnd : Byte) :
    (s.setSample keys rnd).ret = s.ret.setSample keys rnd := by
  by_cases hsp : 0 < s.sp.val <;> simp [State.ret, State.pop, hsp] <;> rfl

/-- A handler cannot tell inputs that agree on what it reads. -/
theorem exec_setSample {i : Instr} {s t : State} {keys : BitVec 16} {rnd : Byte} (h : exec i s = .next t)
    (hkeys : readsKeys i = true → keys = s.keys) (hrnd : readsRnd i = true → rnd = s.rnd) :
    exec i (s.setSample keys rnd) = .next (t.setSample keys rnd) := by
  have other : Part.stack ∉ writes i → exec i (s.setSample keys rnd) = .next (t.setSample keys rnd) := fun hi => by
    obtain ⟨hstack, _⟩ : t.stack = s.stack ∧ t.sp = s.sp := exec_keepsExcept h .stack hi
    rw [← State.overlay_stack, ← State.overlay_stack, hstack]
    exact exec_overlay s.stack h hi hkeys hrnd
  cases i
  case call => cases h; exact congrArg _ (s.call_setSample _ keys rnd)
  case ret => cases h; exact congrArg _ (s.ret_setSample keys rnd)
  all_goals exact other (by simp [writes])

/-- No handler writes the inputs. -/
theorem exec_sample {i : Instr} {s t : State} (h : exec i s = .next t) : t.keys = s.keys ∧ t.rnd = s.rnd :=
  exec_keepsExcept h .sample (by cases i <;> simp [writes])

/-! ## Other stack entries -/

/-- The live entries agree, those below `n`. -/
def SameBelow (n : Nat) (k l : Vector Word 16) : Prop := ∀ (j : Nat) (_ : j < 16), j < n → k[j] = l[j]

/-- Storing the same word at the first index that is not live makes one more agree. -/
theorem SameBelow.push {n : Nat} {k l : Vector Word 16} (h : SameBelow n k l) (hn : n < 16) (a : Word) :
    SameBelow (n + 1) (k.set n a hn) (l.set n a hn) := by
  intro j hj hlt
  by_cases e : n = j
  · simp [e]
  · simpa [e] using h j hj (by omega)

theorem State.call_setStack (s : State) (a : Word) {k : Vector Word 16} (hk : SameBelow s.sp.val k s.stack) :
    ∃ l, (s.setStack k s.sp).call a = (s.call a).setStack l (s.call a).sp ∧
      SameBelow (s.call a).sp.val l (s.call a).stack := by
  rcases s.call_cases a with ⟨hsp, e⟩ | ⟨hsp, e⟩ <;>
    rcases (s.setStack k s.sp).call_cases a with ⟨hsp', e'⟩ | ⟨hsp', e'⟩ <;> rw [e, e']
  · exact ⟨k, rfl, hk⟩
  · exact absurd hsp (Nat.ne_of_lt hsp')
  · exact absurd hsp' (Nat.ne_of_lt hsp)
  · exact ⟨_, rfl, hk.push hsp s.pc⟩

theorem State.ret_setStack (s : State) {k : Vector Word 16} (hk : SameBelow s.sp.val k s.stack) :
    (s.setStack k s.sp).ret = s.ret.setStack k s.ret.sp ∧ SameBelow s.ret.sp.val k s.ret.stack := by
  rcases s.ret_cases with ⟨hsp, e⟩ | ⟨hsp, h16, _, e⟩ <;>
    rcases (s.setStack k s.sp).ret_cases with ⟨hsp', e'⟩ | ⟨hsp', _, _, e'⟩ <;> rw [e, e']
  · exact ⟨rfl, hk⟩
  · exact absurd hsp (Nat.ne_of_gt hsp')
  · exact absurd hsp' (Nat.ne_of_gt hsp)
  · have top : k[s.sp.val - 1] = s.stack[s.sp.val - 1] := hk _ h16 (by omega)
    refine ⟨?_, fun j hj hlt => hk j hj (Nat.lt_of_lt_of_le hlt (Nat.sub_le _ _))⟩
    exact congrArg (State.setPC _) top

/-- A handler cannot tell stack entries that are not live, and it makes no difference in the live ones. -/
theorem exec_setStack {i : Instr} {s t : State} {k : Vector Word 16} (h : exec i s = .next t)
    (hk : SameBelow s.sp.val k s.stack) :
    ∃ l, exec i (s.setStack k s.sp) = .next (t.setStack l t.sp) ∧ SameBelow t.sp.val l t.stack := by
  have other : Part.stack ∉ writes i →
      ∃ l, exec i (s.setStack k s.sp) = .next (t.setStack l t.sp) ∧ SameBelow t.sp.val l t.stack := fun hi => by
    obtain ⟨hstack, hsp⟩ : t.stack = s.stack ∧ t.sp = s.sp := exec_keepsExcept h .stack hi
    obtain ⟨hkeys, hrnd⟩ := exec_sample h
    refine ⟨k, ?_, by rwa [hstack, hsp]⟩
    rw [← State.overlay_sample, ← State.overlay_sample, hkeys, hrnd]
    exact exec_overlay k h hi (fun _ => rfl) (fun _ => rfl)
  cases i
  case call nnn =>
    cases h
    obtain ⟨l, e, hl⟩ := s.call_setStack (addrWord nnn) hk
    exact ⟨l, congrArg _ e, hl⟩
  case ret =>
    cases h
    obtain ⟨e, hl⟩ := s.ret_setStack hk
    exact ⟨k, congrArg _ e, hl⟩
  all_goals exact other (by simp [writes])

/-! ## What a step does to memory, `ST`, the latch and the report -/

@[simp] theorem State.begin_mem (s : State) : s.begin.mem = s.mem := by rw [State.begin_eq]
@[simp] theorem State.begin_pc (s : State) : s.begin.pc = s.pc + 2#16 := by rw [State.begin_eq]
@[simp] theorem State.begin_sp (s : State) : s.begin.sp = s.sp := by rw [State.begin_eq]
@[simp] theorem State.begin_flt (s : State) : s.begin.flt = s.flt := by rw [State.begin_eq]
@[simp] theorem State.begin_outcome (s : State) : s.begin.outcome = .ok := by rw [State.begin_eq]

@[simp] theorem State.timerPhase_mem (s : State) : s.timerPhase.mem = s.mem := by rw [State.timerPhase_eq]
@[simp] theorem State.timerPhase_pc (s : State) : s.timerPhase.pc = s.pc := by rw [State.timerPhase_eq]
@[simp] theorem State.timerPhase_st (s : State) : s.timerPhase.st = 0#8 := by rw [State.timerPhase_eq]
@[simp] theorem State.timerPhase_flt (s : State) : s.timerPhase.flt = s.flt := by rw [State.timerPhase_eq]
@[simp] theorem State.timerPhase_outcome (s : State) : s.timerPhase.outcome = s.outcome := by rw [State.timerPhase_eq]

theorem step_keeps_mem_wf {s t : State} (h : step s = .next t) (hs : s.mem.wf = true) : t.mem.wf = true := by
  obtain ⟨u, hu, rfl⟩ := step_next_current h
  rw [State.timerPhase_mem]
  exact exec_keeps_mem_wf hu (by rwa [State.begin_mem])

theorem step_st {s t : State} (h : step s = .next t) : t.st = 0#8 := by
  obtain ⟨u, -, rfl⟩ := step_next_current h
  exact u.timerPhase_st

/-- A step reports Ok and keeps the latch, or it reports a fault of its instruction, latches it and leaves `PC` two
further. -/
theorem step_fault_cases {s t : State} (h : step s = .next t) :
    (t.flt = s.flt ∧ t.outcome = .ok) ∨
    ∃ c, FaultsWith s.current s c ∧ t.flt = latchFault s.flt c ∧ t.outcome = .fault c s.pc s.opcodeAtPC ∧
      t.pc = s.pc + 2#16 := by
  obtain ⟨u, hu, rfl⟩ := step_next_current h
  rcases exec_fault_cases hu with ⟨hflt, hout⟩ | ⟨c, hc, rfl⟩
  · exact .inl ⟨by simp [hflt], by simp [hout]⟩
  · refine .inr ⟨c, by simpa [FaultsWith] using hc, ?_⟩
    simp [State.raise_eq]

/-! ## The obligations -/

/-- Settles O10. Memory and `ST` by what the step does to them; a step that reports a fault has latched a cause. -/
theorem stepKeepsTheInvariant : Obligations.StepKeepsTheInvariant := by
  rintro s t ⟨hmem, -, -⟩ h
  refine ⟨step_keeps_mem_wf h hmem, step_st h, fun hout => ?_⟩
  rcases step_fault_cases h with ⟨-, hok⟩ | ⟨c, -, hflt, -, -⟩
  · exact absurd hok hout
  · rw [hflt]
    exact latchFault_ne_none s.flt c

/-- Settles O11, from the two things a step can do to the latch. -/
theorem faultLatchKeepsTheFirstCause : Obligations.FaultLatchKeepsTheFirstCause := by
  intro s t h
  rcases step_fault_cases h with ⟨hflt, hok⟩ | ⟨c, hc, hflt, hout, hpc⟩
  · refine ⟨fun d hd => hflt.trans hd, fun hn _ => hflt.trans hn, ?_, ?_⟩ <;> simp [hok]
  · rw [hflt, hout]
    refine ⟨fun d hd => by rw [hd, latchFault_some], fun _ he => by simp at he, fun d a w hn he => ?_,
      fun d a w he => ?_⟩
    · cases he
      rw [hn, latchFault_none]
    · cases he
      exact ⟨rfl, rfl, hpc, hc⟩

/-- Settles O14. -/
theorem instructionsTouchOnlyTheirParts : Obligations.InstructionsTouchOnlyTheirParts :=
  fun _ _ _ h => exec_keepsExcept h

/-- Settles O15. -/
theorem registersChangeOnlyWhereNamed : Obligations.RegistersChangeOnlyWhereNamed :=
  fun _ _ _ h => exec_regsExcept h

/-- Settles O16: each half changes one input, and the other is read as it was. -/
theorem inputsInfluenceOnlyTheirReaders : Obligations.InputsInfluenceOnlyTheirReaders := by
  intro i s t keys rnd h
  obtain ⟨hkeys, hrnd⟩ := exec_sample h
  rw [hkeys, hrnd]
  exact ⟨fun hno => exec_setSample h (by simp [hno]) (fun _ => rfl),
    fun hno => exec_setSample h (fun _ => rfl) (by simp [hno])⟩

/-- Settles O17: the second run ends in the first run's state with other stack entries, the live ones equal. -/
theorem staleStackEntriesAreUnreadable : Obligations.StaleStackEntriesAreUnreadable := by
  intro i s t k h hk
  obtain ⟨l, e, hl⟩ := exec_setStack h hk
  exact ⟨t.setStack l t.sp, e, rfl, keepsExcept_setStack t l t.sp, hl⟩

/-- Settles O1: both machines are the reset state but for memory and the inputs still to come. -/
theorem resetGivesTheResetTable : Obligations.ResetGivesTheResetTable := by
  refine ⟨State.resetWith_default.symm, fun font s r hr => ?_⟩
  obtain ⟨inputs, draws, rfl⟩ : ∃ inputs draws, r = (State.resetWith font).setInputs inputs draws := by
    rcases hr with rfl | rfl
    · exact ⟨_, _, rfl⟩
    · exact ⟨_, _, rfl⟩
  have hfont : ∀ (d row : Nat) (hd : d < 16) (hrow : row < 5),
      (State.resetWith font).memRead1 (0x050 + 5 * d + row) = font[5 * d + row] := by
    intro d row hd hrow
    rw [Nat.add_assoc]
    exact State.memRead1_resetWith_font font (5 * d + row) (by omega)
  have hzero : ∀ a : Nat, a < 0x050 ∨ (0x0A0 ≤ a ∧ a ≤ 0xFFF) → (State.resetWith font).memRead1 a = 0#8 := by
    intro a ha
    have hidx : memIndex a = a := Nat.mod_eq_of_lt (by simp only [Config.memSize]; omega)
    exact State.memRead1_resetWith_outside font a (by omega)
  have hregs : ∀ r : Reg, State.reset.readV r = 0#8 := by decide
  have hstack : ∀ j : Fin 16, State.reset.stack[j] = 0#16 := by decide
  rw [State.resetWith_eq] at hfont hzero ⊢
  exact ⟨hregs, rfl, rfl, rfl, hstack, rfl, rfl, rfl, rfl, Display.lit_blank, hfont, hzero⟩

/-- Settles O2. -/
theorem resetSatisfiesTheInvariant : Obligations.ResetSatisfiesTheInvariant := by
  have hfont : ∀ font : Fontset, (State.resetWith font).Inv := fun font => by
    refine ⟨State.resetWith_wf font, ?_, ?_⟩ <;> rw [State.resetWith_eq]
    · rfl
    · exact fun hout => absurd rfl hout
  exact ⟨State.resetWith_default ▸ hfont defaultFontset, hfont⟩

end Sys2Proof.Machine
end

section
/-! PROOF. The statements of 20_memory.md. In canonical form the entries of a memory are exactly its bytes that differ
from the reset contents, so the reads determine the list. -/

namespace Sys2Proof.Machine

/-! ## The canonical form -/

/-- A byte that is not what an unlisted address reads as is listed. -/
theorem Memory.mem_of_get_ne_unlisted (m : Memory) {k : Nat} (h : m.get k ≠ Memory.unlisted k) : (k, m.get k) ∈ m := by
  induction m with
  | nil => exact absurd rfl h
  | cons c m ih =>
    obtain ⟨l, d⟩ := c
    by_cases hl : l = k
    · simp [Memory.get, hl]
    · rw [Memory.get, if_neg hl] at h ⊢
      exact List.mem_cons_of_mem _ (ih h)

/-- The entries of a memory in canonical form are its bytes that differ from what an unlisted address reads as. -/
theorem Memory.mem_iff_get {m : Memory} (hm : m.wf = true) (k : Nat) (b : Byte) :
    (k, b) ∈ m ↔ k < Config.memSize ∧ b ≠ Memory.unlisted k ∧ m.get k = b := by
  constructor
  · intro hmem
    obtain ⟨hk, hb⟩ := ((Memory.wf_iff m).mp hm).2 (k, b) hmem
    exact ⟨hk, hb, m.get_of_mem hm k b hmem⟩
  · rintro ⟨-, hb, rfl⟩
    exact m.mem_of_get_ne_unlisted hb

/-- Settles O6: the two lists have the same entries, and both are strictly rising. -/
theorem canonicalMemoriesWithEqualBytesAreEqual : Obligations.CanonicalMemoriesWithEqualBytesAreEqual := by
  intro m m' hm hm' hget
  have hmem : ∀ c, c ∈ m ↔ c ∈ m' := by
    rintro ⟨k, b⟩
    rw [Memory.mem_iff_get hm, Memory.mem_iff_get hm']
    exact and_congr_right fun hk => by rw [hget k hk]
  exact List.Pairwise.eq_of_mem_iff (r := InvImage (· < ·) Prod.fst)
    ((Memory.wf_iff m).mp hm).1 ((Memory.wf_iff m').mp hm').1 hmem

/-! ## Reads after writes -/

/-- Settles O5: a read sees the address modulo 4096 alone, and a two-byte read is by definition big-endian. -/
theorem memoryReadReturnsLastWrite : Obligations.MemoryReadReturnsLastWrite := by
  intro s a b v
  have hwrap : memIndex (b + 4096) = memIndex b := Nat.add_mod_right b 4096
  exact ⟨s.memRead1_memWrite a b v, State.memRead1_congr rfl hwrap, rfl⟩

/-- Two bytes stored at `PC`, the higher first, are the opcode there. -/
theorem State.opcodeAtPC_memWriteAll (s : State) (hi lo : Byte) :
    (s.memWriteAll s.pc.toNat [hi, lo]).opcodeAtPC = wordOfBytes hi lo := by
  have hstored := s.memRead1_memWriteAll_inside s.pc.toNat [hi, lo] (by simp)
  exact congrArg₂ wordOfBytes (hstored 0 (by simp)) (hstored 1 (by simp))

/-- Settles O7: the two writes are a store of consecutive bytes at `PC`. -/
theorem storeIsSeenByTheNextFetch : Obligations.StoreIsSeenByTheNextFetch :=
  fun s hi lo => congrArg decodeWord (s.opcodeAtPC_memWriteAll hi lo)

end Sys2Proof.Machine
end

section
/-! PROOF. The statements of 30_encoding.md. The two directions of the round trip come first: the first-level dispatch
is walked once (`decodeWord_cases`), then each secondary table twice, for its handlers and for its no-operations. That
the dispatcher is the flat opcode map, and that an alias is its canonical encoding, follow from the round trip. -/

namespace Sys2Proof

open Machine Claims

/-! ## The secondary tables: a family's opcode comes back -/

theorem encode_decodeFamily0 {op : Word} (ht : fieldT op = 0x0#4) : encode (decodeFamily0 op) = op := by
  have hfields := encodeNone_fields op
  unfold decodeFamily0
  split <;> simp_all [encode]

theorem encode_decodeFamily8 {op : Word} (ht : fieldT op = 0x8#4) : encode (decodeFamily8 op) = op := by
  have hfields := encodeXY_fields op
  unfold decodeFamily8
  split <;> simp_all [encode]

theorem encode_decodeFamilyE {op : Word} (ht : fieldT op = 0xE#4) : encode (decodeFamilyE op) = op := by
  have hfields := encodeKey_fields op ht
  unfold decodeFamilyE
  split <;> simp_all [encode]

theorem encode_decodeFamilyF {op : Word} (ht : fieldT op = 0xF#4) : encode (decodeFamilyF op) = op := by
  have hfields := encodeXKK_fields op
  unfold decodeFamilyF
  split <;> simp_all [encode]

/-! ## The secondary tables: the keys without a handler -/

theorem decodeFamily0_eq_nop_iff (op : Word) : decodeFamily0 op = .nop op ↔ fieldN op ∉ [0x0#4, 0xE#4] := by
  unfold decodeFamily0
  split <;> simp_all

theorem decodeFamily8_eq_nop_iff (op : Word) :
    decodeFamily8 op = .nop op ↔ fieldN op ∈ [0x8#4, 0x9#4, 0xA#4, 0xB#4, 0xC#4, 0xD#4, 0xF#4] := by
  unfold decodeFamily8
  split
  case h_10 =>
    refine iff_of_true rfl ?_
    generalize fieldN op = n at *
    decide +revert
  all_goals simp_all

theorem decodeFamilyE_eq_nop_iff (op : Word) : decodeFamilyE op = .nop op ↔ fieldN op ∉ [0x1#4, 0xE#4] := by
  unfold decodeFamilyE
  split <;> simp_all

theorem decodeFamilyF_eq_nop_iff (op : Word) : decodeFamilyF op = .nop op ↔ fieldKK op ∉ familyFKeys := by
  unfold decodeFamilyF
  split <;> simp_all [familyFKeys]

/-! ## The first level -/

/-- Four families have a secondary table (R74). An opcode of any other is that of a handler, and comes back. -/
theorem decodeWord_cases (op : Word) :
    (fieldT op = 0x0#4 ∧ decodeWord op = decodeFamily0 op) ∨
    (fieldT op = 0x8#4 ∧ decodeWord op = decodeFamily8 op) ∨
    (fieldT op = 0xE#4 ∧ decodeWord op = decodeFamilyE op) ∨
    (fieldT op = 0xF#4 ∧ decodeWord op = decodeFamilyF op) ∨
    (fieldT op ∉ [0x0#4, 0x8#4, 0xE#4, 0xF#4] ∧ encode (decodeWord op) = op ∧ decodeWord op ≠ .nop op) := by
  have hAddr := encodeAddr_fields op
  have hXKK := encodeXKK_fields op
  have hXY := encodeXY_fields op
  unfold decodeWord
  split
  case h_1 ht => exact .inl ⟨ht, rfl⟩
  case h_9 ht => exact .inr (.inl ⟨ht, rfl⟩)
  case h_15 ht => exact .inr (.inr (.inl ⟨ht, rfl⟩))
  case h_16 =>
    have ht : fieldT op = 0xF#4 := by
      simp only [imp_false] at *
      bv_omega
    exact .inr (.inr (.inr (.inl ⟨ht, rfl⟩)))
  all_goals simp_all [encode]

theorem encode_decodeWord (op : Word) : encode (decodeWord op) = op := by
  rcases decodeWord_cases op with ⟨ht, e⟩ | ⟨ht, e⟩ | ⟨ht, e⟩ | ⟨ht, e⟩ | ⟨-, hback, -⟩
  · rw [e, encode_decodeFamily0 ht]
  · rw [e, encode_decodeFamily8 ht]
  · rw [e, encode_decodeFamilyE ht]
  · rw [e, encode_decodeFamilyF ht]
  · exact hback

/-- The no-operation set in the words of R79. -/
theorem isNopWord_iff (op : Word) : isNopWord op = true ↔
    (fieldT op = 0x0#4 ∧ fieldN op ∉ [0x0#4, 0xE#4]) ∨
    (fieldT op = 0x8#4 ∧ fieldN op ∈ [0x8#4, 0x9#4, 0xA#4, 0xB#4, 0xC#4, 0xD#4, 0xF#4]) ∨
    (fieldT op = 0xE#4 ∧ fieldN op ∉ [0x1#4, 0xE#4]) ∨
    (fieldT op = 0xF#4 ∧ fieldKK op ∉ familyFKeys) := by
  have hrange : ∀ n : Nibble, n ∈ [0x8#4, 0x9#4, 0xA#4, 0xB#4, 0xC#4, 0xD#4, 0xF#4] ↔
      (n.ule 0xD#4 && (0x8#4).ule n || n == 0xF#4) = true := by decide
  rw [hrange]
  simp [isNopWord, fieldT, fieldN, fieldKK, or_assoc]

theorem decodeWord_eq_nop_iff (op : Word) : decodeWord op = .nop op ↔ isNopWord op = true := by
  rw [isNopWord_iff]
  rcases decodeWord_cases op with ⟨ht, e⟩ | ⟨ht, e⟩ | ⟨ht, e⟩ | ⟨ht, e⟩ | ⟨ht, -, hne⟩
  · simp [e, ht, decodeFamily0_eq_nop_iff]
  · simp [e, ht, decodeFamily8_eq_nop_iff]
  · simp [e, ht, decodeFamilyE_eq_nop_iff]
  · simp [e, ht, decodeFamilyF_eq_nop_iff]
  · simp_all

/-- A NOP carries the opcode it was decoded from. -/
theorem eq_of_decodeWord_eq_nop {op w : Word} (h : decodeWord op = .nop w) : w = op := by
  simpa [h, encode] using encode_decodeWord op

theorem wf_decodeWord (op : Word) : (decodeWord op).wf = true := by
  cases h : decodeWord op
  case nop w =>
    obtain rfl := eq_of_decodeWord_eq_nop h
    exact (decodeWord_eq_nop_iff w).mp h
  all_goals rfl

/-! ## The round trip -/

theorem decodeWord_encode {i : Instr} (h : i.wf = true) : decodeWord (encode i) = i := by
  cases i
  case nop op => exact (decodeWord_eq_nop_iff op).mpr h
  case cls | ret => simp [encode, decodeWord, decodeFamily0]
  case ldReg | or | and | xor | addReg | sub | shr | subn | shl => simp [encode, decodeWord, decodeFamily8]
  case skp | sknp => simp [encode, decodeWord, decodeFamilyE]
  case ldVxDt | ldVxK | ldDtVx | ldStVx | addI | ldF | ldB | stRegs | ldRegs =>
    simp [encode, decodeWord, decodeFamilyF]
  all_goals simp [encode, decodeWord]

theorem decode_encodeBytes (i : Instr) (rest : List Byte) :
    decode (encodeBytes i ++ rest) = .ok (decodeWord (encode i), rest) :=
  congrArg (fun op => Except.ok (decodeWord op, rest)) (wordOfBytes_bytes (encode i))

/-- Settles O49. -/
theorem decodeOfEncodeGivesTheInstructionBack : Obligations.DecodeOfEncodeGivesTheInstructionBack := by
  intro i rest h
  rw [decode_encodeBytes, decodeWord_encode h]

/-- Settles O50. -/
theorem encodeOfDecodeGivesTheOpcodeBack : Obligations.EncodeOfDecodeGivesTheOpcodeBack :=
  fun op => ⟨encode_decodeWord op, wf_decodeWord op⟩

/-- Settles O52: an opcode that decodes to a NOP decodes to the NOP that carries it. -/
theorem noOperationSetIsExact : Obligations.NoOperationSetIsExact := by
  intro op
  have hself : (∃ w, decodeWord op = .nop w) ↔ decodeWord op = .nop op :=
    ⟨fun ⟨_, h⟩ => h.trans (congrArg Instr.nop (eq_of_decodeWord_eq_nop h)), fun h => ⟨op, h⟩⟩
  exact hself.trans ((decodeWord_eq_nop_iff op).trans (isNopWord_iff op))

/-! ## The opcode map -/

theorem opcodeRows_mask : ∀ r ∈ opcodeRowsLow ++ opcodeRowsHigh,
    r.mask = 0xF000#16 ∨ r.mask = 0xF00F#16 ∨ r.mask = 0xF0FF#16 := by decide

/-- An opcode that matches a row is dispatched to it: the row's mask fixes the family, and the key of the family's
secondary table where there is one. -/
theorem opcodeRows_decode : ∀ r ∈ opcodeRowsLow ++ opcodeRowsHigh, RowDecodes r.mask r.m r.build := by
  intro r hr op h
  have hT : fieldT op = r.m.extractLsb' 12 4 := by
    rcases opcodeRows_mask r hr with e | e | e <;> rw [e] at h
    · exact fieldT_of_and_F000 h
    · exact fieldT_of_and_F00F h
    · exact fieldT_of_and_F0FF h
  have hN : r.mask = 0xF00F#16 → fieldN op = r.m.extractLsb' 0 4 := fun e => fieldN_of_and_F00F (e ▸ h)
  have hKK : r.mask = 0xF0FF#16 → fieldKK op = r.m.extractLsb' 0 8 := fun e => fieldKK_of_and_F0FF (e ▸ h)
  fin_cases hr <;>
    simp [decodeWord, decodeFamily0, decodeFamily8, decodeFamilyE, decodeFamilyF, hT, hN, hKK]

/-- Two rows differ in a bit that both masks compare. -/
theorem opcodeRows_disjoint : (opcodeRowsLow ++ opcodeRowsHigh).Pairwise
    (fun a b => ∀ op : Word, ¬(op &&& a.mask = a.m ∧ op &&& b.mask = b.m)) := by
  have hdiffer : (opcodeRowsLow ++ opcodeRowsHigh).Pairwise (fun a b => a.m &&& b.mask ≠ b.m &&& a.mask) := by decide
  refine hdiffer.imp ?_
  rintro a b hne op ⟨ha, hb⟩
  rw [← ha, ← hb, BitVec.and_assoc, BitVec.and_assoc, BitVec.and_comm a.mask] at hne
  exact hne rfl

open Laws.EncodesItsRow in
/-- The family `EncodesItsRow` for every instruction, by the format of its opcode. -/
theorem encodesItsRow (i : Instr) : Statement i := by
  cases i
  case cls | ret => exact encodeNone_and _ _ _
  case jp | call | ldI | jpV0 => exact encodeAddr_and _ _
  case seImm | sneImm | ldImm | addImm | rnd => exact encodeXKK_and_F000 _ _ _
  case seReg | sneReg | drw => exact encodeXY_and_F000 _ _ _ _
  case ldReg | or | and | xor | addReg | sub | shr | subn | shl => exact encodeXY_and_F00F _ _ _ _
  case skp | sknp => exact encodeKey_and _ _ _
  case ldVxDt | ldVxK | ldDtVx | ldStVx | addI | ldF | ldB | stRegs | ldRegs => exact encodeXKK_and_F0FF _ _ _
  case nop op => exact Laws.EncodesItsRow.nop op

/-- The row of an instruction (Laws/PerInstr.lean) is one of the 34. -/
theorem row_mem_opcodeRows {i : Instr} {p : Word × Word} (h : Laws.EncodesItsRow.row i = some p) :
    ∃ r ∈ opcodeRowsLow ++ opcodeRowsHigh, (r.mask, r.m) = p := by
  rw [← List.mem_map]
  cases i <;> cases h <;> decide

theorem encode_matches_some_row {i : Instr} (h : ∀ w, i ≠ .nop w) :
    ∃ r ∈ opcodeRowsLow ++ opcodeRowsHigh, encode i &&& r.mask = r.m := by
  have hrow := encodesItsRow i
  unfold Laws.EncodesItsRow.Statement at hrow
  split at hrow
  next e =>
    obtain ⟨r, hr, hp⟩ := row_mem_opcodeRows e
    cases hp
    exact ⟨r, hr, hrow⟩
  next e =>
    cases i <;> cases e
    exact absurd rfl (h _)

/-- The row that is found decodes the opcode. Where none is found the opcode has no handler, since a handler's opcode
matches the handler's row. -/
theorem decodeWord_eq_decodeFlat (op : Word) : decodeWord op = decodeFlat op := by
  unfold decodeFlat
  split
  next r hfind =>
    exact opcodeRows_decode r (List.mem_of_find?_eq_some hfind) op (by simpa using List.find?_some hfind)
  next hnone =>
    by_contra hne
    obtain ⟨r, hr, hmatch⟩ := encode_matches_some_row (i := decodeWord op) fun w hw =>
      hne (by rw [hw, eq_of_decodeWord_eq_nop hw])
    rw [encode_decodeWord] at hmatch
    exact List.find?_eq_none.mp hnone r hr (by simpa using hmatch)

/-- Settles O51. -/
theorem dispatchIsTheOpcodeMap : Obligations.DispatchIsTheOpcodeMap :=
  ⟨decodeWord_eq_decodeFlat, rfl, opcodeRows_disjoint⟩

/-! ## Aliases -/

theorem wf_canonicalForm {i : Instr} (h : i.wf = true) : (canonicalForm i).wf = true := by
  cases i <;> exact h

theorem canonicalForm_ne_nop {i : Instr} (h : ∀ w, i ≠ .nop w) (w : Word) : canonicalForm i ≠ .nop w := by
  cases i
  case nop v => exact absurd rfl (h v)
  all_goals exact fun e => Instr.noConfusion e

theorem canonicalForm_canonicalForm (i : Instr) : canonicalForm (canonicalForm i) = canonicalForm i := by
  cases i <;> rfl

/-- No handler sees the ignored bits (R80). -/
theorem exec_canonicalForm (i : Instr) (s : State) : exec (canonicalForm i) s = exec i s := by
  cases i <;> rfl

theorem canonical_iff {op : Word} (h : ∀ w, decodeWord op ≠ .nop w) :
    canonical op = true ↔ decodeWord op = canonicalForm (decodeWord op) := by
  unfold canonical
  cases hi : decodeWord op
  case nop w => exact absurd hi (h w)
  all_goals simp [canonicalForm]

/-- Settles O53: the canonical form is well-formed, so its opcode decodes to it. -/
theorem aliasesExecuteAsTheCanonicalEncoding : Obligations.AliasesExecuteAsTheCanonicalEncoding := by
  intro op s hne
  have hdec : decodeWord (encode (canonicalForm (decodeWord op))) = canonicalForm (decodeWord op) :=
    decodeWord_encode (wf_canonicalForm (wf_decodeWord op))
  refine ⟨?_, ?_, (canonical_iff hne).trans ⟨fun h => ?_, fun h => ?_⟩⟩
  · rw [hdec, exec_canonicalForm]
  · rw [canonical_iff (by rw [hdec]; exact canonicalForm_ne_nop hne), hdec, canonicalForm_canonicalForm]
  · rw [← h, encode_decodeWord]
  · rw [← hdec, h]

/-! ## Words of the spec -/

/-- Settles O54, by evaluation of the dispatcher. -/
theorem wordsOfTheSpecDecode : Obligations.WordsOfTheSpecDecode := by
  unfold Obligations.WordsOfTheSpecDecode
  decide

end Sys2Proof
end

section
/-! PROOF. The statements of 40_step_and_dispatch.md. First that every handler answers a next state, and that each
timer has one handler that writes it. Then what the phases around the handler leave, in the words of the statements,
what a whole step does to each timer, and the obligations. -/

namespace Sys2Proof.Machine

/-! ## The execute phase -/

/-- No handler blocks, stops or is refused (R108, R109). -/
theorem exec_completes (i : Instr) (s : State) : ∃ t, exec i s = .next t := by
  cases i <;> exact ⟨_, rfl⟩

/-- `Fx15` alone writes `DT`. -/
theorem dt_notMem_writes {i : Instr} (h : ∀ x, i ≠ .ldDtVx x) : Part.dt ∉ writes i := by
  cases i
  case ldDtVx x => exact absurd rfl (h x)
  all_goals simp [writes]

/-- `Fx18` alone writes `ST`. -/
theorem st_notMem_writes {i : Instr} (h : ∀ x, i ≠ .ldStVx x) : Part.st ∉ writes i := by
  cases i
  case ldStVx x => exact absurd rfl (h x)
  all_goals simp [writes]

/-! ## The phases around it -/

/-- The bytes at `PC` are one whole instruction, the current one. -/
theorem decode_bytesAtPC (s : State) : decode s.bytesAtPC = .ok (s.current, []) := rfl

theorem wf_current (s : State) : s.current.wf = true := wf_decodeWord s.opcodeAtPC

theorem step_of_exec_fault {s : State} {f : Fault} (h : exec s.current s.begin = .fault f) : step s = .fault f := by
  rw [step, State.begin_opcode, ← State.current, h]

theorem step_of_exec_refused {s : State} {r : Refusal} (h : exec s.current s.begin = .refused r) :
    step s = .refused r := by
  rw [step, State.begin_opcode, ← State.current, h]

@[simp] theorem State.begin_dt (s : State) : s.begin.dt = s.dt := by rw [State.begin_eq]
@[simp] theorem State.begin_st (s : State) : s.begin.st = s.st := by rw [State.begin_eq]
@[simp] theorem State.readV_begin (s : State) (r : Reg) : s.begin.readV r = s.readV r := by rw [State.begin_eq]; rfl

@[simp] theorem State.timerPhase_opcode (s : State) : s.timerPhase.opcode = s.opcode := by rw [State.timerPhase_eq]
@[simp] theorem State.readV_timerPhase (s : State) (r : Reg) : s.timerPhase.readV r = s.readV r := by
  rw [State.timerPhase_eq]; rfl

theorem State.timerPhase_dt (s : State) : s.timerPhase.dt = if s.dt = 0#8 then 0#8 else s.dt - 1#8 := by
  rw [State.timerPhase_eq]

theorem State.timerPhase_tone (s : State) : s.timerPhase.tone = if s.st = 0#8 then none else some s.st := by
  rw [State.timerPhase_eq]

/-- The spec writes "above 0" where the model compares with 0. -/
theorem ite_toNat_pos {α : Type} (b : Byte) (x y : α) :
    (if 0 < b.toNat then x else y) = if b = 0#8 then y else x := by
  by_cases h : b = 0#8
  · simp [h]
  · rw [if_pos (BitVec.toNat_pos_of_ne_zero h), if_neg h]

/-- What the execute phase starts from, with the fetched word named. -/
theorem State.begin_eq_opcodeAtPC (s : State) : s.begin =
    { s with
        keys := s.nextInput.keys, rnd := s.nextInput.rnd, inputs := s.inputs.tail, draws := s.draws + 1
        outcome := .ok, opcode := s.opcodeAtPC, pc := s.pc + 2#16 } :=
  s.begin_eq

/-- The timer phase in the words of R105 and R107. -/
theorem State.timerPhase_eq_of_pos (s : State) : s.timerPhase =
    { s with dt := if 0 < s.dt.toNat then s.dt - 1#8 else s.dt
             tone := if 0 < s.st.toNat then some s.st else none
             st := 0#8 } := by
  have hdt : (if s.dt = 0#8 then 0#8 else s.dt - 1#8) = if s.dt = 0#8 then s.dt else s.dt - 1#8 := by
    split <;> simp_all
  rw [State.timerPhase_eq, ite_toNat_pos, ite_toNat_pos, hdt]

/-! ## What a step does -/

/-- A step writes what its handler may write, and what the phases around it write. -/
theorem step_keepsExcept {s t : State} (h : step s = .next t) :
    KeepsExcept (writes s.current ++ .pc :: stepParts) s t := by
  obtain ⟨u, hu, rfl⟩ := step_next_current h
  have hbegin : KeepsExcept (.pc :: stepParts) s s.begin := (keepsExcept_begin s).mono (by decide)
  have htimers : KeepsExcept (.pc :: stepParts) u u.timerPhase := (keepsExcept_timerPhase u).mono (by decide)
  have hexec : KeepsExcept (writes s.current ++ .pc :: stepParts) s.begin u :=
    (exec_keepsExcept hu).mono fun _ => List.mem_append_left _
  exact ((hbegin.mono fun _ => List.mem_append_right _).trans hexec).trans
    (htimers.mono fun _ => List.mem_append_right _)

theorem step_dt_of_ldDtVx {s t : State} {x : Reg} (h : step s = .next t) (hx : s.current = .ldDtVx x) :
    t.dt = if s.readV x = 0#8 then 0#8 else s.readV x - 1#8 := by
  obtain ⟨u, hu, rfl⟩ := step_next_current h
  rw [hx] at hu
  cases hu
  rw [State.timerPhase_dt, State.setDT_dt, State.readV_begin]

theorem step_dt_of_ne_ldDtVx {s t : State} (h : step s = .next t) (hne : ∀ x, s.current ≠ .ldDtVx x) :
    t.dt = if s.dt = 0#8 then 0#8 else s.dt - 1#8 := by
  obtain ⟨u, hu, rfl⟩ := step_next_current h
  have hdt : u.dt = s.begin.dt := exec_keepsExcept hu .dt (dt_notMem_writes hne)
  rw [State.timerPhase_dt, hdt, State.begin_dt]

/-- `Fx07` reads `DT` before the step decrements it. -/
theorem step_readV_of_ldVxDt {s t : State} {x : Reg} (h : step s = .next t) (hx : s.current = .ldVxDt x) :
    t.readV x = s.dt := by
  obtain ⟨u, hu, rfl⟩ := step_next_current h
  rw [hx] at hu
  cases hu
  simp

theorem step_tone_of_ldStVx {s t : State} {x : Reg} (h : step s = .next t) (hx : s.current = .ldStVx x) :
    t.tone = if s.readV x = 0#8 then none else some (s.readV x) := by
  obtain ⟨u, hu, rfl⟩ := step_next_current h
  rw [hx] at hu
  cases hu
  rw [State.timerPhase_tone, State.setST_st, State.readV_begin]

theorem step_tone_of_ne_ldStVx {s t : State} (h : step s = .next t) (hne : ∀ x, s.current ≠ .ldStVx x) :
    t.tone = if s.st = 0#8 then none else some s.st := by
  obtain ⟨u, hu, rfl⟩ := step_next_current h
  have hst : u.st = s.begin.st := exec_keepsExcept hu .st (st_notMem_writes hne)
  rw [State.timerPhase_tone, hst, State.begin_st]

/-- The step of a no-operation is the phases around an empty handler. -/
theorem step_of_nop {s : State} {op : Word} (h : s.current = .nop op) : step s = .next s.begin.timerPhase :=
  step_of_exec_current (by rw [h]; rfl)

/-! ## The obligations -/

/-- Settles O9: the handler of the current instruction answers a next state, and the timer phase follows it. -/
theorem everyStepCompletes : Obligations.EveryStepCompletes := by
  intro s
  obtain ⟨t, ht⟩ := exec_completes s.current s.begin
  exact ⟨⟨t.timerPhase, step_of_exec_current ht⟩, decode_bytesAtPC s, wf_current s⟩

/-- Settles O12. -/
theorem delayTimerCountsSteps : Obligations.DelayTimerCountsSteps := by
  intro s t h
  refine ⟨?_, fun hne => ?_, fun x hx hpos => ?_, fun x hx hzero => ?_, fun x hx => step_readV_of_ldVxDt h hx⟩
  · obtain ⟨u, hu, rfl⟩ := step_next_current h
    exact ⟨u, hu, by rw [State.timerPhase_dt, ite_toNat_pos]⟩
  · rw [step_dt_of_ne_ldDtVx h hne, ite_toNat_pos]
  · rw [step_dt_of_ldDtVx h hx, ← ite_toNat_pos, if_pos hpos]
  · rw [step_dt_of_ldDtVx h hx, ← ite_toNat_pos, if_neg (by omega)]

/-- Settles O13. -/
theorem soundTimerFiresOnceAndIsZeroed : Obligations.SoundTimerFiresOnceAndIsZeroed :=
  fun _ _ h => ⟨step_st h, fun _ hx => step_tone_of_ldStVx h hx, fun hne => step_tone_of_ne_ldStVx h hne⟩

/-- Settles O8: the state the handler starts from is `State.begin`, and each answer of the handler passes through. -/
theorem stepRunsTheDecodedInstruction : Obligations.StepRunsTheDecodedInstruction := by
  intro s i hdec _
  obtain rfl : s.current = i := by
    rw [decode_bytesAtPC] at hdec
    cases hdec
    rfl
  rw [← State.begin_eq_opcodeAtPC]
  split
  next t ht => rw [step_of_exec_current ht, State.timerPhase_eq_of_pos]
  next f hf => exact step_of_exec_fault hf
  next r hr => exact step_of_exec_refused hr

/-- Settles O48. -/
theorem noOperationOnlyAdvances : Obligations.NoOperationOnlyAdvances := by
  refine ⟨fun op => (decodeWord_eq_nop_iff op).mpr, fun _ _ => rfl, fun op s hop => ?_⟩
  have hstep := step_of_nop hop
  have hframe : KeepsExcept (.pc :: stepParts) s s.begin.timerPhase := by
    simpa [hop, writes] using step_keepsExcept hstep
  exact ⟨_, hstep, by simp, by simp, by simp, by simp [State.timerPhase_dt], by simp, by simp [State.timerPhase_tone],
    hframe⟩

end Sys2Proof.Machine
end

section
/-! PROOF. The statements of 41_control_flow.md. First what each handler of the family does: the jumps set `PC`, a call
and a return that do not fault are a push and a pop, and the six skips are one handler, told apart by their conditions.
Then the step of a jump and of a skip, the run of a jump to itself, and the obligations. -/

namespace Sys2Proof.Machine

open Claims

/-! ## Jumps -/

@[simp] theorem toNat_addrWord (nnn : Addr) : (addrWord nnn).toNat = nnn.toNat := by
  rw [addrWord, BitVec.toNat_setWidth_of_le (by decide)]

@[simp] theorem toNat_byteWord (b : Byte) : (byteWord b).toNat = b.toNat := by
  rw [byteWord, BitVec.toNat_setWidth_of_le (by decide)]

/-- A byte and a 12-bit address never carry out of 16 bits. -/
theorem toNat_byteWord_add_addrWord (b : Byte) (nnn : Addr) :
    (byteWord b + addrWord nnn).toNat = b.toNat + nnn.toNat := by
  rw [BitVec.toNat_add, toNat_byteWord, toNat_addrWord]
  omega

/-! ## The call stack -/

/-- A call with room on the stack (R123). -/
theorem exec_call_of_lt (nnn : Addr) {s : State} (hsp : s.sp.val < 16) :
    ∃ t, exec (.call nnn) s = .next t ∧ t.pc.toNat = nnn.toNat ∧ t.sp.val = s.sp.val + 1 ∧
      (∀ (j : Nat) (_ : j < 16), t.stack[j] = if j = s.sp.val then s.pc else s.stack[j]) ∧
      KeepsExcept [.pc, .stack] s t := by
  rcases s.call_cases (addrWord nnn) with ⟨hfull, _⟩ | ⟨h, e⟩
  · omega
  · refine ⟨_, congrArg Host.Outcome.next e, toNat_addrWord nnn, rfl, fun j hj => ?_, keepsExcept_setStack_setPC s _ _ _⟩
    simp [Vector.getElem_set, eq_comm]

/-- A return with an entry on the stack (R121). -/
theorem exec_ret_of_pos (m : BitVec 8) {s : State} (hsp : 0 < s.sp.val) :
    ∃ t, exec (.ret m) s = .next t ∧ t.sp.val = s.sp.val - 1 ∧
      (∀ (j : Nat) (_ : j < 16), j = s.sp.val - 1 → t.pc = s.stack[j]) ∧
      t.stack = s.stack ∧ KeepsExcept [.pc, .stack] s t := by
  rcases s.ret_cases with ⟨hempty, _⟩ | ⟨_, _, _, e⟩
  · omega
  · refine ⟨_, congrArg Host.Outcome.next e, rfl, fun j _ hj => ?_, rfl, keepsExcept_setStack_setPC s _ _ _⟩
    subst hj
    rfl

/-! ## Skips -/

/-- The six skips are one handler (R129). -/
theorem exec_of_skipCondition {i : Instr} {s : State} {c : Bool} (h : skipCondition s i = some c) :
    exec i s = .next (s.skipIf c) := by
  cases i <;> cases h
  case seImm | seReg | skp | sknp => rfl
  case sneImm | sneReg => rw [decide_not]; rfl

theorem writes_of_skipCondition {i : Instr} {s : State} {c : Bool} (h : skipCondition s i = some c) :
    writes i = [.pc] := by
  cases i <;> cases h <;> rfl

/-- What a skip on the condition `P` does to the state. -/
theorem exec_skip {i : Instr} {s : State} {P : Prop} [Decidable P] (h : skipCondition s i = some (decide P)) :
    ∃ t, exec i s = .next t ∧ t.pc = (if P then s.pc + 2#16 else s.pc) ∧ KeepsExcept [.pc] s t :=
  ⟨_, exec_of_skipCondition h, by simp [State.skipIf_eq], keepsExcept_skipIf s _⟩

/-! ## Steps -/

/-- The next instruction depends on memory and `PC` alone. -/
theorem State.current_congr {s t : State} (hmem : Agree s t .mem) (hpc : Agree s t .pc) : t.current = s.current := by
  simp only [Agree] at hmem hpc
  simp [State.current, State.opcodeAtPC, hmem, hpc]

/-- A part on which the states agree need not be listed. -/
theorem KeepsExcept.of_cons {p : Part} {ps : List Part} {s t : State} (h : KeepsExcept (p :: ps) s t)
    (hp : Agree s t p) : KeepsExcept ps s t := by
  intro q hq
  by_cases e : q = p
  · exact e ▸ hp
  · exact h q (by simp [e, hq])

/-- A step whose handler may write `PC` at most writes `PC` and what every step writes. -/
theorem step_keepsExcept_of_writes {s t : State} (h : step s = .next t) (hw : writes s.current = [.pc]) :
    KeepsExcept (.pc :: stepParts) s t := by
  have := step_keepsExcept h
  rw [hw] at this
  exact this.mono (by decide)

/-- A jump to its own address leaves `PC` where it was. -/
theorem step_selfJump {s : State} {nnn : Addr} (hcur : s.current = .jp nnn) (hpc : s.pc.toNat = nnn.toNat) :
    ∃ t, step s = .next t ∧ KeepsExcept stepParts s t := by
  have hstep : step s = .next (s.begin.setPC (addrWord nnn)).timerPhase :=
    step_of_exec_current (by rw [hcur]; rfl)
  have hkept : Agree s (s.begin.setPC (addrWord nnn)).timerPhase .pc :=
    BitVec.eq_of_toNat_eq (by simp [hpc])
  exact ⟨_, hstep, (step_keepsExcept_of_writes hstep (by rw [hcur]; rfl)).of_cons hkept⟩

/-- A run whose first step answers `t` goes on from `t`. -/
theorem run_succ_of_step {M : Host.Core} {s t : M.State} (h : M.step s = .next t) (n : Nat) :
    M.run (n + 1) s = M.run n t := by
  rw [Host.Core.run, h]

/-- What every step from a state that has it keeps, holds after every number of steps. -/
theorem run_of_step {P : State → Prop} (hstep : ∀ s, P s → ∃ t, step s = .next t ∧ P t) (n : Nat) {s : State}
    (hs : P s) : ∃ t, Host.Core.run core n s = .next t ∧ P t := by
  induction n generalizing s with
  | zero => exact ⟨s, rfl, hs⟩
  | succ n ih =>
    obtain ⟨u, hu, hPu⟩ := hstep s hs
    obtain ⟨t, ht, hPt⟩ := ih hPu
    exact ⟨t, (run_succ_of_step (M := core) hu n).trans ht, hPt⟩

/-! ## The obligations -/

/-- Settles O18: to agree with the first state outside what every step writes is kept by the step, since the next
instruction is then the same jump to itself. -/
theorem jumpSetsPC : Obligations.JumpSetsPC := by
  refine ⟨opcodeRows_decode ⟨_, _, _⟩ (by simp [opcodeRowsLow]), fun nnn s => ?_, fun nnn s hcur hpc n => ?_⟩
  · exact ⟨_, rfl, toNat_addrWord nnn, (toNat_addrWord nnn).trans_le (Nat.le_of_lt_succ nnn.isLt), keepsExcept_setPC s _⟩
  · refine run_of_step (fun u hu => ?_) n (KeepsExcept.refl stepParts s)
    have hmem : Agree s u .mem := hu .mem (by decide)
    have hupc : Agree s u .pc := hu .pc (by decide)
    obtain ⟨t, ht, hut⟩ := step_selfJump ((State.current_congr hmem hupc).trans hcur) (hupc ▸ hpc)
    exact ⟨t, ht, hu.trans hut⟩

/-- Settles O19. -/
theorem indexedJumpAddsV0 : Obligations.IndexedJumpAddsV0 :=
  ⟨opcodeRows_decode ⟨_, _, _⟩ (by simp [opcodeRowsHigh]),
    fun nnn s => ⟨_, rfl, toNat_byteWord_add_addrWord _ nnn, keepsExcept_setPC s _⟩⟩

/-- Settles O20. -/
theorem callPushesTheAdvancedPC : Obligations.CallPushesTheAdvancedPC :=
  ⟨opcodeRows_decode ⟨_, _, _⟩ (by simp [opcodeRowsLow]), fun nnn _ => exec_call_of_lt nnn⟩

/-- Settles O22. -/
theorem returnPopsIntoPC : Obligations.ReturnPopsIntoPC :=
  ⟨opcodeRows_decode ⟨_, _, _⟩ (by simp [opcodeRowsLow]), fun m _ => exec_ret_of_pos m⟩

/-- Settles O24: the return pops the entry that the call pushed, the one at the call's `SP`. -/
theorem returnResumesAfterTheCall : Obligations.ReturnResumesAfterTheCall := by
  intro nnn m s t u hsp hcall hstack husp
  obtain ⟨t', ht', -, htsp, hentries, -⟩ := exec_call_of_lt nnn hsp
  obtain rfl : t' = t := by
    rw [ht'] at hcall
    cases hcall
    rfl
  have husp' : u.sp.val = s.sp.val + 1 := by rw [husp, htsp]
  obtain ⟨w, hw, hwsp, hwpc, hwstack, -⟩ := exec_ret_of_pos (s := u) m (by omega)
  refine ⟨w, hw, ?_, Fin.ext (by omega), fun j hj hlt => ?_⟩
  · rw [hwpc s.sp.val hsp (by omega)]
    simp [hstack, hentries]
  · have hne : j ≠ s.sp.val := by omega
    simp [hwstack, hstack, hentries, hne]

/-- Settles O25. -/
theorem immediateSkips : Obligations.ImmediateSkips :=
  ⟨opcodeRows_decode ⟨_, _, _⟩ (by simp [opcodeRowsLow]), opcodeRows_decode ⟨_, _, _⟩ (by simp [opcodeRowsLow]),
    fun _ _ _ => ⟨exec_skip rfl, exec_skip rfl⟩⟩

/-- Settles O26. -/
theorem registerSkips : Obligations.RegisterSkips :=
  ⟨opcodeRows_decode ⟨_, _, _⟩ (by simp [opcodeRowsLow]), opcodeRows_decode ⟨_, _, _⟩ (by simp [opcodeRowsHigh]),
    fun _ _ _ _ => ⟨exec_skip rfl, exec_skip rfl⟩⟩

/-- Settles O27: the fetch advances `PC` by 2, and a skip that is taken by 2 more. -/
theorem skipStepLeavesPCTwoOrFourOn : Obligations.SkipStepLeavesPCTwoOrFourOn := by
  intro s c hc
  have hstep : step s = .next (s.begin.skipIf c).timerPhase := step_of_exec_current (exec_of_skipCondition hc)
  refine ⟨_, hstep, ?_, ?_, step_keepsExcept_of_writes hstep (writes_of_skipCondition hc)⟩
  · cases c <;> simp [State.skipIf_eq, BitVec.add_assoc]
  · simp [State.skipIf_eq]

end Sys2Proof.Machine
end

section
/-! PROOF. The statements of 42_alu.md. First what one byte operation does to its operands as numbers. Then the two
shapes of a handler of the family: one register is written, or VF and then one register, with the second write reading
the registers as the first left them (R141). The obligations name the shape each instruction has. -/

namespace Sys2Proof.Machine

open Claims

/-! ## The byte operations as arithmetic -/

@[simp] theorem toNat_bit (c : Bool) : (bit c).toNat = c.toNat := by
  cases c <;> rfl

@[simp] theorem toNat_wideSum (a b : Byte) : (wideSum a b).toNat = a.toNat + b.toNat := by
  simp only [wideSum, BitVec.toNat_add, BitVec.toNat_setWidth]
  omega

theorem carryFlag_wideSum (a b : Byte) : carryFlag (wideSum a b) = decide (255 < a.toNat + b.toNat) := by
  rw [carryFlag, toNat_wideSum]

theorem toNat_sumByte_wideSum (a b : Byte) : (sumByte (wideSum a b)).toNat = (a.toNat + b.toNat) % 256 := by
  rw [sumByte, BitVec.toNat_setWidth, toNat_wideSum]

theorem toNat_ushiftRight_one (a : Byte) : (a >>> 1).toNat = a.toNat / 2 := by
  rw [BitVec.toNat_ushiftRight, Nat.shiftRight_eq_div_pow, pow_one]

theorem toNat_shiftLeft_one (a : Byte) : (a <<< 1).toNat = 2 * a.toNat % 256 := by
  rw [BitVec.toNat_shiftLeft, Nat.shiftLeft_eq, pow_one, mul_comm]

theorem toNat_bit_lowBitFlag (a : Byte) : (bit (lowBitFlag a)).toNat = a.toNat % 2 := by
  rw [toNat_bit, lowBitFlag, ← BitVec.testBit_toNat, Nat.toNat_testBit, pow_zero, Nat.div_one]

theorem toNat_bit_highBitFlag (a : Byte) : (bit (highBitFlag a)).toNat = a.toNat / 128 := by
  rw [toNat_bit, highBitFlag, ← BitVec.testBit_toNat, Nat.toNat_testBit]
  omega

/-- A flag has no bit above its lowest. -/
theorem bit_ushiftRight_one (c : Bool) : bit c >>> 1 = 0#8 := by
  cases c <;> rfl

theorem toNat_bit_shiftLeft_one (c : Bool) : (bit c <<< 1).toNat = 2 * (bit c).toNat := by
  cases c <;> rfl

/-! ## The registers after the flag is written -/

theorem State.readV_writeFlag_vf (s : State) (c : Bool) : (s.writeFlag c).readV Reg.vf = bit c :=
  s.readV_writeV_same Reg.vf (bit c)

theorem State.readV_writeFlag_ne (s : State) (c : Bool) {r : Reg} (h : r ≠ Reg.vf) :
    (s.writeFlag c).readV r = s.readV r :=
  s.readV_writeV_ne (bit c) h

/-! ## The shapes of the handlers -/

/-- A handler that writes one register. -/
theorem exec_writeV {i : Instr} {s : State} {x : Reg} {b : Byte} (h : exec i s = .next (s.writeV x b)) :
    ∃ t, exec i s = .next t ∧ t.readV x = b ∧ RegsExcept [x] s t ∧ KeepsExcept [.regs] s t :=
  ⟨_, h, s.readV_writeV_same x b, regsExcept_writeV s x b, keepsExcept_writeV s x b⟩

/-- A handler that writes VF and then one register, which may be VF itself: the second write is the one that stays. -/
theorem exec_writeFlag_writeV {i : Instr} {s : State} {c : Bool} {x : Reg} {b : Byte}
    (h : exec i s = .next ((s.writeFlag c).writeV x b)) :
    ∃ t, exec i s = .next t ∧ RegsExcept [x, Reg.vf] s t ∧ KeepsExcept [.regs] s t ∧
      (x ≠ Reg.vf → t.readV Reg.vf = bit c) ∧ t.readV x = b := by
  refine ⟨_, h, regsExcept_writeFlag_writeV s c x b, keepsExcept_writeFlag_writeV s c x b, fun hx => ?_,
    State.readV_writeV_same _ x b⟩
  rw [State.readV_writeV_ne _ b hx.symm, State.readV_writeFlag_vf]

/-- The cases of R154 for a handler that writes the flag `cond Vx Vy` of the old values, then `Vx <- f Vx Vy` from the
registers as they then are: an operand that is VF has become the flag. -/
theorem exec_flag_then_binary (cond : Byte → Byte → Bool) (f : Byte → Byte → Byte) (hf : ∀ b, f b b = 0#8) {i : Instr}
    {s t : State} {x y : Reg} (ht : t = s.writeFlag (cond (s.readV x) (s.readV y)))
    (h : exec i s = .next (t.writeV x (f (t.readV x) (t.readV y)))) :
    ∃ u, exec i s = .next u ∧ RegsExcept [x, Reg.vf] s u ∧ KeepsExcept [.regs] s u ∧
      (x ≠ Reg.vf → u.readV Reg.vf = bit (cond (s.readV x) (s.readV y))) ∧
      (x ≠ Reg.vf → y ≠ Reg.vf → u.readV x = f (s.readV x) (s.readV y)) ∧
      (x ≠ Reg.vf → y = Reg.vf → u.readV x = f (s.readV x) (bit (cond (s.readV x) (s.readV y)))) ∧
      (x = Reg.vf → y ≠ Reg.vf → u.readV Reg.vf = f (bit (cond (s.readV Reg.vf) (s.readV y))) (s.readV y)) ∧
      (x = Reg.vf → y = Reg.vf → u.readV Reg.vf = 0#8) := by
  subst ht
  obtain ⟨u, hu, hregs, hparts, hflag, hx⟩ := exec_writeFlag_writeV h
  refine ⟨u, hu, hregs, hparts, hflag, fun hxf hyf => ?_, fun hxf hyf => ?_, fun hxf hyf => ?_, fun hxf hyf => ?_⟩
  · rw [hx, State.readV_writeFlag_ne s _ hxf, State.readV_writeFlag_ne s _ hyf]
  · subst hyf
    rw [hx, State.readV_writeFlag_ne s _ hxf, State.readV_writeFlag_vf]
  · subst hxf
    rw [hx, State.readV_writeFlag_vf, State.readV_writeFlag_ne s _ hyf]
  · subst hxf hyf
    rw [hx, hf]

/-- The cases of R154 for a handler that writes the flag `cond Vx` of the old value, then `Vx <- f Vx`. -/
theorem exec_flag_then_unary (cond : Byte → Bool) (f : Byte → Byte) {i : Instr} {s t : State} {x : Reg}
    (ht : t = s.writeFlag (cond (s.readV x))) (h : exec i s = .next (t.writeV x (f (t.readV x)))) :
    ∃ u, exec i s = .next u ∧ RegsExcept [x, Reg.vf] s u ∧ KeepsExcept [.regs] s u ∧
      (x ≠ Reg.vf → u.readV x = f (s.readV x) ∧ u.readV Reg.vf = bit (cond (s.readV x))) ∧
      (x = Reg.vf → u.readV Reg.vf = f (bit (cond (s.readV Reg.vf)))) := by
  subst ht
  obtain ⟨u, hu, hregs, hparts, hflag, hx⟩ := exec_writeFlag_writeV h
  refine ⟨u, hu, hregs, hparts, fun hxf => ⟨?_, hflag hxf⟩, fun hxf => ?_⟩
  · rw [hx, State.readV_writeFlag_ne s _ hxf]
  · subst hxf
    rw [hx, State.readV_writeFlag_vf]

/-! ## The obligations -/

/-- Settles O30: the sum of the old values is latched before VF is written, so no form needs a case of its own. -/
theorem addRegisterSetsCarry : Obligations.AddRegisterSetsCarry := by
  refine ⟨opcodeRows_decode ⟨_, _, _⟩ (by simp [opcodeRowsLow]), fun x y s => ?_⟩
  obtain ⟨t, ht, hregs, hparts, hflag, hx⟩ := exec_writeFlag_writeV (i := .addReg x y) (s := s) rfl
  refine ⟨t, ht, ?_, ?_, hregs, hparts⟩
  · rw [hx, toNat_sumByte_wideSum]
  · rwa [← carryFlag_wideSum]

/-- Settles O31: the two subtractions are one shape, with the operands exchanged. -/
theorem subtractionsSetGreaterThan : Obligations.SubtractionsSetGreaterThan :=
  ⟨opcodeRows_decode ⟨_, _, _⟩ (by simp [opcodeRowsLow]), opcodeRows_decode ⟨_, _, _⟩ (by simp [opcodeRowsLow]),
    fun _ _ _ =>
      ⟨exec_flag_then_binary greaterFlag (fun vx vy => vx - vy) BitVec.sub_self rfl rfl,
        exec_flag_then_binary (fun vx vy => greaterFlag vy vx) (fun vx vy => vy - vx) BitVec.sub_self rfl rfl⟩⟩

/-- Settles O32: the flag is one bit, so that shifted in VF it is lost to the right and doubled to the left. -/
theorem shiftsSetTheBitShiftedOut : Obligations.ShiftsSetTheBitShiftedOut := by
  refine ⟨opcodeRows_decode ⟨_, _, _⟩ (by simp [opcodeRowsLow]),
    opcodeRows_decode ⟨_, _, _⟩ (by simp [opcodeRowsLow]), fun x y s => ⟨?_, ?_⟩⟩
  · obtain ⟨t, ht, hregs, hparts, hne, heq⟩ :=
      exec_flag_then_unary lowBitFlag (· >>> 1) (i := .shr x y) (s := s) rfl rfl
    refine ⟨t, ht, hregs, hparts, fun hx => ?_, fun hx => ?_⟩
    · obtain ⟨hvx, hvf⟩ := hne hx
      rw [hvx, hvf]
      exact ⟨toNat_ushiftRight_one _, toNat_bit_lowBitFlag _⟩
    · rw [heq hx, bit_ushiftRight_one]
  · obtain ⟨t, ht, hregs, hparts, hne, heq⟩ :=
      exec_flag_then_unary highBitFlag (· <<< 1) (i := .shl x y) (s := s) rfl rfl
    refine ⟨t, ht, hregs, hparts, fun hx => ?_, fun hx => ?_⟩
    · obtain ⟨hvx, hvf⟩ := hne hx
      rw [hvx, hvf]
      exact ⟨toNat_shiftLeft_one _, toNat_bit_highBitFlag _⟩
    · rw [heq hx, toNat_bit_shiftLeft_one, toNat_bit_highBitFlag]

/-- Settles O28. -/
theorem immediateLoadAndAdd : Obligations.ImmediateLoadAndAdd := by
  refine ⟨opcodeRows_decode ⟨_, _, _⟩ (by simp [opcodeRowsLow]),
    opcodeRows_decode ⟨_, _, _⟩ (by simp [opcodeRowsLow]), fun x kk s => ⟨exec_writeV rfl, ?_⟩⟩
  obtain ⟨t, ht, hx, hframe⟩ := exec_writeV (i := .addImm x kk) (s := s) rfl
  exact ⟨t, ht, hx ▸ BitVec.toNat_add _ _, hframe⟩

/-- Settles O29: all four write one register, and VF only as that register. -/
theorem registerCopyAndLogic : Obligations.RegisterCopyAndLogic :=
  ⟨opcodeRows_decode ⟨_, _, _⟩ (by simp [opcodeRowsLow]), opcodeRows_decode ⟨_, _, _⟩ (by simp [opcodeRowsLow]),
    opcodeRows_decode ⟨_, _, _⟩ (by simp [opcodeRowsLow]), opcodeRows_decode ⟨_, _, _⟩ (by simp [opcodeRowsLow]),
    fun _ _ _ => ⟨exec_writeV rfl, exec_writeV rfl, exec_writeV rfl, exec_writeV rfl⟩⟩

/-- Settles O33. -/
theorem randomByteIsMasked : Obligations.RandomByteIsMasked := by
  refine ⟨opcodeRows_decode ⟨_, _, _⟩ (by simp [opcodeRowsHigh]), fun x kk s => ?_⟩
  obtain ⟨t, ht, hx, hframe⟩ := exec_writeV (i := .rnd x kk) (s := s) rfl
  refine ⟨t, ht, hx, ?_, hframe⟩
  rw [hx, BitVec.and_assoc, BitVec.and_not_self]
  exact BitVec.and_zero

end Sys2Proof.Machine
end

section
/-! PROOF. The statements of 43_index_memory.md. First the arithmetic of the operands, then what the two memory accesses
of the family do, byte by byte at `EA(k)`: consecutive bytes stored from `I` upward, and registers loaded from there. -/

namespace Sys2Proof.Machine

open Claims

/-! ## The operands as arithmetic -/

/-- The largest glyph address, 0x0050 + 5 * 255, does not carry out of 16 bits. -/
theorem toNat_fontAddress (b : Byte) : (fontAddress b).toNat = 0x0050 + 5 * b.toNat := by
  simp only [fontAddress, Config.fontBase, BitVec.toNat_add, BitVec.toNat_mul, BitVec.toNat_ofNat, toNat_byteWord]
  omega

theorem toNat_add_byteWord (a : Word) (b : Byte) : (a + byteWord b).toNat = (a.toNat + b.toNat) % 65536 := by
  rw [BitVec.toNat_add, toNat_byteWord]

theorem toNat_hundreds (b : Byte) : (hundreds b).toNat = b.toNat / 100 := BitVec.toNat_udiv

theorem toNat_tens (b : Byte) : (tens b).toNat = b.toNat / 10 % 10 := by
  rw [tens, BitVec.toNat_umod, BitVec.toNat_udiv]
  rfl

theorem toNat_ones (b : Byte) : (ones b).toNat = b.toNat % 10 := BitVec.toNat_umod

/-! ## Storing from `I` upward -/

/-- Each of the consecutive bytes stands at its effective address, where the addresses wrap too (R160). -/
theorem State.memRead1_memWriteAll_ea (s : State) {bs : List Byte} (hlen : bs.length ≤ 4096) {j : Nat}
    (hj : j < bs.length) : (s.memWriteAll s.i.toNat bs).memRead1 (s.ea j) = bs[j] :=
  (State.memRead1_congr rfl (memIndex_memIndex _)).trans (s.memRead1_memWriteAll_inside s.i.toNat bs hlen j hj)

theorem getElem_map_regsUpTo {α : Type} (f : Reg → α) {x k : Reg} (h : k.val < ((regsUpTo x).map f).length) :
    ((regsUpTo x).map f)[k.val] = f k := by
  rw [List.getElem_map, getElem_regsUpTo]

/-- What `Fx55` stores. -/
theorem State.memRead1_storeRegs (s : State) {x k : Reg} (hk : k ≤ x) :
    (s.memWriteAll s.i.toNat ((regsUpTo x).map s.readV)).memRead1 (s.ea k.val) = s.readV k := by
  have hlen : ((regsUpTo x).map s.readV).length = x.val + 1 := by simp
  have hkx : k.val ≤ x.val := hk
  have hx : x.val < 16 := x.isLt
  rw [s.memRead1_memWriteAll_ea (by omega) (by omega), getElem_map_regsUpTo]

/-- What `Fx55` leaves in memory. -/
theorem State.memRead1_storeRegs_outside (s : State) {x : Reg} {a : Nat}
    (h : ∀ k : Reg, k ≤ x → memIndex a ≠ s.ea k.val) :
    (s.memWriteAll s.i.toNat ((regsUpTo x).map s.readV)).memRead1 a = s.memRead1 a := by
  refine s.memRead1_memWriteAll_outside _ _ a fun j hj => ?_
  have hjx : j < x.val + 1 := by simpa using hj
  have hx : x.val < 16 := x.isLt
  exact h ⟨j, by omega⟩ (Nat.le_of_lt_succ hjx)

/-! ## Loading from `I` upward -/

/-- What `Fx65` loads. -/
theorem State.readV_loadRegs_of_le (s : State) {x k : Reg} (hk : k ≤ x) :
    (s.loadRegs (regsUpTo x)).readV k = s.memRead1 (s.ea k.val) := by
  rw [State.readV_loadRegs, if_pos ((mem_regsUpTo x k).mpr hk)]

/-! ## The obligations -/

/-- Settles O36: the three digits are the bytes of one store at `I`. -/
theorem decimalDigitsAreStored : Obligations.DecimalDigitsAreStored := by
  refine ⟨opcodeRows_decode ⟨_, _, _⟩ (by simp [opcodeRowsHigh]), fun x s => ?_⟩
  have hstored := fun j => s.memRead1_memWriteAll_ea
    (bs := [hundreds (s.readV x), tens (s.readV x), ones (s.readV x)]) (by simp) (j := j)
  refine ⟨_, rfl, ?_, ?_, ?_, fun a h0 h1 h2 => ?_, keepsExcept_memWriteAll s _ _⟩
  · rw [hstored 0 (by simp)]
    exact toNat_hundreds _
  · rw [hstored 1 (by simp)]
    exact toNat_tens _
  · rw [hstored 2 (by simp)]
    exact toNat_ones _
  · refine s.memRead1_memWriteAll_outside _ _ a fun j hj => ?_
    match j, hj with
    | 0, _ => exact h0
    | 1, _ => exact h1
    | 2, _ => exact h2

/-- Settles O37. -/
theorem storeRegistersWritesThePrefix : Obligations.StoreRegistersWritesThePrefix :=
  ⟨opcodeRows_decode ⟨_, _, _⟩ (by simp [opcodeRowsHigh]), fun _ s =>
    ⟨_, rfl, fun _ => s.memRead1_storeRegs, fun _ => s.memRead1_storeRegs_outside, keepsExcept_memWriteAll s _ _⟩⟩

/-- Settles O38: a load writes no `I` and no memory, so that every register is loaded from the state before. -/
theorem loadRegistersReadsThePrefix : Obligations.LoadRegistersReadsThePrefix := by
  refine ⟨opcodeRows_decode ⟨_, _, _⟩ (by simp [opcodeRowsHigh]), fun x s =>
    ⟨_, rfl, fun _ => s.readV_loadRegs_of_le, fun k hk => ?_, keepsExcept_loadRegs s _⟩⟩
  have hnot : k ∉ regsUpTo x := fun hmem => absurd ((mem_regsUpTo x k).mp hmem) (Fin.not_le.mpr hk)
  exact regsExcept_loadRegs s _ k hnot

/-- Settles O39: with the same `I` the load reads the addresses that were stored to. -/
theorem storeThenLoadRestoresRegisters : Obligations.StoreThenLoadRestoresRegisters := by
  intro x s t u hstore hi hbytes
  cases hstore
  refine ⟨_, rfl, fun k hk => ?_⟩
  have hea : u.ea k.val = s.ea k.val := by rw [State.ea, State.ea, hi]
  rw [u.readV_loadRegs_of_le hk, hea, hbytes k hk, s.memRead1_storeRegs hk]

/-- Settles O34. -/
theorem loadIndex : Obligations.LoadIndex :=
  ⟨opcodeRows_decode ⟨_, _, _⟩ (by simp [opcodeRowsHigh]), fun nnn s =>
    ⟨_, rfl, toNat_addrWord nnn, (toNat_addrWord nnn).trans_le (Nat.le_of_lt_succ nnn.isLt), keepsExcept_setI s _⟩⟩

/-- Settles O35. -/
theorem indexAddAndFontAddress : Obligations.IndexAddAndFontAddress :=
  ⟨opcodeRows_decode ⟨_, _, _⟩ (by simp [opcodeRowsHigh]), opcodeRows_decode ⟨_, _, _⟩ (by simp [opcodeRowsHigh]),
    fun _ s =>
      ⟨⟨_, rfl, toNat_add_byteWord _ _, keepsExcept_setI s _⟩,
        ⟨_, rfl, toNat_fontAddress _, keepsExcept_setI s _⟩⟩⟩

end Sys2Proof.Machine
end

section
/-! PROOF. The statements of 44_display.md. A draw is the exclusive or of the display with the sprite's cells, and the
cells are told by memory, `I` and the two origin registers: a draw by itself changes none of them but an origin in VF. -/

namespace Sys2Proof.Machine

open Claims

/-! ## The cells of a draw -/

/-- The cells that `Dxyn` draws on: those of the grid that the sprite, with its origin reduced, has a set bit for
(R182, R184). -/
def State.drwCovers (s : State) (x y : Reg) (n : Nibble) (py px : Nat) : Prop :=
  onGrid py px ∧ s.spriteCovers ((s.readV x).toNat % 64) ((s.readV y).toNat % 32) n.toNat py px

/-- A lit cell is a cell of the grid. -/
theorem State.onGrid_of_cell {s : State} {py px : Nat} (h : s.cell py px = true) : onGrid py px := by
  by_contra hout
  exact Bool.false_ne_true ((Display.lit_outside s.disp hout).symm.trans h)

/-- The cells depend on memory, `I` and the origin alone. -/
theorem State.drwCovers_congr {s t : State} {x y : Reg} (hmem : t.mem = s.mem) (hi : t.i = s.i)
    (hx : t.readV x = s.readV x) (hy : t.readV y = s.readV y) (n : Nibble) (py px : Nat) :
    t.drwCovers x y n py px ↔ s.drwCovers x y n py px := by
  simp only [State.drwCovers, State.spriteCovers, State.memRead1, State.ea, hmem, hi, hx, hy]

/-- A draw toggles the cells that it covers, and no other. -/
theorem State.lit_drawn (s : State) (x y : Reg) (n : Nibble) (py px : Nat) :
    (s.drawn x y n).1.lit py px = s.cell py px ↔ ¬s.drwCovers x y n py px := by
  constructor
  · rintro hsame ⟨hgrid, hcov⟩
    have htoggled : (s.drawn x y n).1.lit py px = !s.cell py px :=
      plotSprite_lit_covered _ _ _ _ _ _ _ hcov hgrid
    exact Bool.not_ne_self _ (htoggled.symm.trans hsame)
  · intro hnot
    by_cases hgrid : onGrid py px
    · exact plotSprite_lit_uncovered _ _ _ _ _ _ _ fun hcov => hnot ⟨hgrid, hcov⟩
    · exact (Display.lit_outside _ hgrid).trans (Display.lit_outside _ hgrid).symm

/-- The collision of a draw: one of the covered cells was lit. The rows and columns of the sprite are numbered from the
origin, the cells from the corner of the grid. -/
theorem State.drawn_collision (s : State) (x y : Reg) (n : Nibble) :
    (s.drawn x y n).2 = true ↔ ∃ py px, s.cell py px = true ∧ s.drwCovers x y n py px := by
  rw [State.drawn, (plotSprite_spec _ _ _ _ _).2]
  constructor
  · rintro (hfalse | ⟨row, hrow, col, hcol, hbit, hlit⟩)
    · exact absurd hfalse Bool.false_ne_true
    · refine ⟨_, _, hlit, State.onGrid_of_cell hlit, Nat.le_add_right _ _, Nat.add_lt_add_left hrow _,
        Nat.le_add_right _ _, Nat.add_lt_add_left hcol _, ?_⟩
      rw [originX, originY, Nat.add_sub_cancel_left, Nat.add_sub_cancel_left]
      exact hbit
  · rintro ⟨py, px, hlit, -, hy, hyn, hx, hx8, hbit⟩
    refine .inr ⟨py - originY (s.readV y), Nat.sub_lt_left_of_lt_add hy hyn, px - originX (s.readV x),
      Nat.sub_lt_left_of_lt_add hx hx8, hbit, ?_⟩
    rw [originX, originY, Nat.add_sub_cancel' hy, Nat.add_sub_cancel' hx]
    exact hlit

/-! ## The handler of `Dxyn` -/

section drw
variable {x y : Reg} {n : Nibble} {s t : State} (h : exec (.drw x y n) s = .next t)
include h

theorem cell_eq_iff_of_exec_drw (py px : Nat) : t.cell py px = s.cell py px ↔ ¬s.drwCovers x y n py px := by
  cases h
  exact s.lit_drawn x y n py px

theorem cell_eq_not_of_exec_drw {py px : Nat} (hcov : s.drwCovers x y n py px) : t.cell py px = !s.cell py px :=
  Bool.eq_not.mpr fun hsame => (cell_eq_iff_of_exec_drw h py px).mp hsame hcov

theorem vf_of_exec_drw : t.readV Reg.vf = bit (s.drawn x y n).2 := by
  cases h
  exact State.readV_writeFlag_vf _ _

theorem vf_eq_one_iff_of_exec_drw :
    t.readV Reg.vf = 1#8 ↔ ∃ py px, s.cell py px = true ∧ s.drwCovers x y n py px := by
  rw [vf_of_exec_drw h, ← s.drawn_collision]
  cases (s.drawn x y n).2 <;> decide

theorem vf_eq_zero_iff_of_exec_drw :
    t.readV Reg.vf = 0#8 ↔ ¬∃ py px, s.cell py px = true ∧ s.drwCovers x y n py px := by
  rw [vf_of_exec_drw h, ← s.drawn_collision]
  cases (s.drawn x y n).2 <;> decide

/-- A draw covers the cells that the draw before it covered, unless its origin is in VF and was changed (R185). -/
theorem drwCovers_after_drw (horigin : (x ≠ Reg.vf ∧ y ≠ Reg.vf) ∨ t.readV Reg.vf = s.readV Reg.vf) (py px : Nat) :
    t.drwCovers x y n py px ↔ s.drwCovers x y n py px := by
  have hsame : ∀ r, (r ≠ Reg.vf ∨ t.readV Reg.vf = s.readV Reg.vf) → t.readV r = s.readV r := fun r hr => by
    by_cases hvf : r = Reg.vf
    · rw [hvf, hr.resolve_left (not_not.mpr hvf)]
    · exact exec_regsExcept h r (by simpa [destRegs] using hvf)
  obtain ⟨hmem, hi⟩ : t.mem = s.mem ∧ t.i = s.i := by cases h; exact ⟨rfl, rfl⟩
  exact State.drwCovers_congr hmem hi (hsame x (horigin.imp_left And.left)) (hsame y (horigin.imp_left And.right)) n py px

end drw

/-! ## The obligations -/

/-- Settles O41: a draw toggles exactly the cells it covers, and VF is its collision. -/
theorem drawTogglesTheCoveredCells : Obligations.DrawTogglesTheCoveredCells := by
  refine ⟨opcodeRows_decode ⟨_, _, _⟩ (by simp [opcodeRowsHigh]), fun x y n s => ?_⟩
  obtain ⟨t, h⟩ : ∃ t, exec (.drw x y n) s = .next t := ⟨_, rfl⟩
  refine ⟨t, h, fun py px hgrid => ⟨fun hcov => cell_eq_not_of_exec_drw h ⟨hgrid, hcov⟩, fun hnot => ?_⟩, ?_, ?_,
    exec_regsExcept h, exec_keepsExcept h⟩
  · exact (cell_eq_iff_of_exec_drw h py px).mpr fun hcov => hnot hcov.2
  · rintro ⟨py, px, hgrid, hlit, hcov⟩
    exact (vf_eq_one_iff_of_exec_drw h).mpr ⟨py, px, hlit, hgrid, hcov⟩
  · intro hnone
    refine (vf_eq_zero_iff_of_exec_drw h).mpr ?_
    rintro ⟨py, px, hlit, hgrid, hcov⟩
    exact hnone py px hgrid hlit hcov

/-- Settles O42: the second draw covers the cells that the first covered, so that it toggles each of them back; from a
clear display those are the lit cells when it starts. -/
theorem drawingTwiceRestoresTheDisplay : Obligations.DrawingTwiceRestoresTheDisplay := by
  intro x y n s t u hst htu horigin
  have hcov := drwCovers_after_drw hst horigin
  refine ⟨fun py px => ?_, fun hclear => ⟨?_, ?_⟩⟩
  · by_cases hc : s.drwCovers x y n py px
    · rw [cell_eq_not_of_exec_drw htu ((hcov py px).mpr hc), cell_eq_not_of_exec_drw hst hc, Bool.not_not]
    · rw [(cell_eq_iff_of_exec_drw htu py px).mpr fun h => hc ((hcov py px).mp h),
        (cell_eq_iff_of_exec_drw hst py px).mpr hc]
  · refine (vf_eq_zero_iff_of_exec_drw hst).mpr ?_
    rintro ⟨py, px, hlit, -⟩
    exact Bool.false_ne_true ((hclear py px).symm.trans hlit)
  · have hlit : ∀ py px, s.drwCovers x y n py px → t.cell py px = true := fun py px hc => by
      rw [cell_eq_not_of_exec_drw hst hc, hclear, Bool.not_false]
    rw [vf_eq_one_iff_of_exec_drw htu]
    constructor
    · rintro ⟨py, px, -, hc⟩
      exact ⟨py, px, (hcov py px).mp hc⟩
    · rintro ⟨py, px, hc⟩
      exact ⟨py, px, hlit py px hc, (hcov py px).mpr hc⟩

/-- Settles O40. -/
theorem clearUnlightsEveryCell : Obligations.ClearUnlightsEveryCell :=
  ⟨opcodeRows_decode ⟨_, _, _⟩ (by simp [opcodeRowsLow]), fun _ s =>
    ⟨_, rfl, Display.lit_blank, keepsExcept_setDisp s _⟩⟩

end Sys2Proof.Machine
end

section
/-! PROOF. The statements of 45_keypad_timers.md. The two key skips are among the skips of 41_control_flow.md, and the
timer instructions write one part each. A wait for a key either undoes the fetch advance or takes the one key that is
the least pressed; the waiting step is the first case with the phases around it. -/

namespace Sys2Proof.Machine

open Claims

/-! ## The wait for a key -/

/-- A snapshot has at most one least pressed key. -/
theorem least_key_unique {keys : BitVec 16} {j k : Nat} (hj : keys.getLsbD j = true)
    (hjleast : ∀ i < j, keys.getLsbD i = false) (hk : keys.getLsbD k = true)
    (hkleast : ∀ i < k, keys.getLsbD i = false) : j = k := by
  rcases Nat.lt_trichotomy j k with hlt | heq | hgt
  · exact absurd hj (by simp [hkleast j hlt])
  · exact heq
  · exact absurd hk (by simp [hjleast k hgt])

/-- With no key pressed the wait undoes the fetch advance (R194). -/
theorem State.waitKey_of_no_key {s : State} (x : Reg) (hkeys : s.keys = 0#16) : s.waitKey x = s.backUp := by
  rcases s.waitKey_cases x with ⟨_, e⟩ | ⟨k, _, hk, _, _⟩
  · exact e
  · simp [hkeys] at hk

/-- The least pressed key ends the wait (R194). -/
theorem State.waitKey_of_least_key {s : State} (x : Reg) {k : Nat} (hk : s.keys.getLsbD k = true)
    (hleast : ∀ j < k, s.keys.getLsbD j = false) : s.waitKey x = s.writeV x (BitVec.ofNat 8 k) := by
  rcases s.waitKey_cases x with ⟨hkeys, _⟩ | ⟨j, _, hj, hjleast, e⟩
  · simp [hkeys] at hk
  · rw [e, least_key_unique hj hjleast hk hleast]

@[simp] theorem State.begin_keys (s : State) : s.begin.keys = s.nextInput.keys := by rw [State.begin_eq]

/-- The step of a wait with no key pressed in its snapshot. -/
theorem step_of_ldVxK_of_no_key {s : State} {x : Reg} (hx : s.current = .ldVxK x) (hkeys : s.nextInput.keys = 0#16) :
    step s = .next s.begin.backUp.timerPhase := by
  have hwait : s.begin.waitKey x = s.begin.backUp := State.waitKey_of_no_key x (by simp [hkeys])
  exact step_of_exec_current (by rw [hx]; exact congrArg Host.Outcome.next hwait)

/-! ## The obligations -/

/-- Settles O44. -/
theorem keyWaitTakesTheLeastKey : Obligations.KeyWaitTakesTheLeastKey := by
  refine ⟨opcodeRows_decode ⟨_, _, _⟩ (by simp [opcodeRowsHigh]), fun x s =>
    ⟨s.waitKey x, rfl, fun hkeys => ?_, fun k hk16 hk hleast => ?_⟩⟩
  · rw [State.waitKey_of_no_key x hkeys]
    exact ⟨s.backUp_pc, keepsExcept_setPC s _⟩
  · rw [State.waitKey_of_least_key x hk hleast, State.readV_writeV_same]
    exact ⟨Nat.mod_eq_of_lt (by omega), regsExcept_writeV s x _, keepsExcept_writeV s x _⟩

/-- Settles O45: of what the handler may write, the registers are not written, and `PC` goes back to where the fetch
found it. -/
theorem waitingStepChangesOnlyTimers : Obligations.WaitingStepChangesOnlyTimers := by
  intro x s hx hkeys
  have hstep := step_of_ldVxK_of_no_key hx hkeys
  have hpc : s.begin.backUp.timerPhase.pc = s.pc := by simp
  have hregs : Agree s s.begin.backUp.timerPhase .regs := fun r =>
    (State.readV_timerPhase _ r).trans (s.readV_begin r)
  have hframe := step_keepsExcept hstep
  rw [hx] at hframe
  have hframe' : KeepsExcept (.pc :: stepParts) s s.begin.backUp.timerPhase :=
    (KeepsExcept.of_cons hframe hregs).mono (by simp)
  exact ⟨_, hstep, hpc, hframe'.of_cons hpc, step_dt_of_ne_ldDtVx hstep (by simp [hx]), by simp⟩

/-- Settles O43: both are the skip of 41_control_flow.md, on the selected bit of the snapshot and on its negation. -/
theorem keySkips : Obligations.KeySkips := by
  refine ⟨opcodeRows_decode ⟨_, _, _⟩ (by simp [opcodeRowsHigh]),
    opcodeRows_decode ⟨_, _, _⟩ (by simp [opcodeRowsHigh]), fun x z s => ⟨?_, ?_⟩⟩
  · exact ⟨_, exec_of_skipCondition rfl, keepsExcept_skipIf s _, by rw [State.skipIf_eq, State.setPC_pc]⟩
  · refine ⟨_, exec_of_skipCondition rfl, keepsExcept_skipIf s _, ?_⟩
    rw [State.skipIf_eq, State.setPC_pc]
    cases s.keys.getLsbD ((s.readV x).toNat % 16) <;> rfl

/-- Settles O46: the value read is the one that the timer phase, which comes after the handler, counts down. -/
theorem delayTimerIsReadBeforeTheDecrement : Obligations.DelayTimerIsReadBeforeTheDecrement := by
  refine ⟨opcodeRows_decode ⟨_, _, _⟩ (by simp [opcodeRowsHigh]), fun x s => exec_writeV rfl, fun x s hx => ?_⟩
  have hstep : step s = .next (s.begin.writeV x s.begin.dt).timerPhase := step_of_exec_current (by rw [hx]; rfl)
  have hread := step_readV_of_ldVxDt hstep hx
  have hdt := step_dt_of_ne_ldDtVx hstep (by simp [hx])
  refine ⟨_, hstep, hread, fun hne => ?_, fun hzero => ⟨hread.trans hzero, ?_⟩⟩
  · rw [hread, hdt, if_neg hne, BitVec.sub_add_cancel]
  · rw [hdt, if_pos hzero]

/-- Settles O47. -/
theorem timersAreSetFromARegister : Obligations.TimersAreSetFromARegister :=
  ⟨opcodeRows_decode ⟨_, _, _⟩ (by simp [opcodeRowsHigh]), opcodeRows_decode ⟨_, _, _⟩ (by simp [opcodeRowsHigh]),
    fun _ s => ⟨⟨_, rfl, rfl, keepsExcept_setDT s _⟩, ⟨_, rfl, rfl, keepsExcept_setST s _⟩⟩⟩

end Sys2Proof.Machine
end

section
/-! PROOF. The statements of 60_exceptions.md. A call on the full stack and a return on the empty one are the same raise,
with two causes. -/

namespace Sys2Proof.Machine

open Claims

/-! ## The raise -/

/-- The first cause stays, and only where there is none the new one is taken (R223). -/
theorem latchFault_eq_some_getD (f : Option FaultCause) (c : FaultCause) : latchFault f c = some (f.getD c) := by
  cases f with
  | none => rfl
  | some first => rfl

/-- A handler that raises latches, reports, and does nothing else (R223, R224). -/
theorem exec_raise {i : Instr} {s : State} {c : FaultCause} (h : exec i s = .next (s.raise c)) :
    ∃ t, exec i s = .next t ∧ t.flt = some (s.flt.getD c) ∧ t.outcome = .fault c (s.pc - 2#16) s.opcode ∧
      KeepsExcept [.flt, .outcome] s t :=
  ⟨_, h, latchFault_eq_some_getD s.flt c, rfl, keepsExcept_raise s c⟩

/-! ## The two conditions -/

/-- A call with no room on the stack (R221). -/
theorem exec_call_of_full (nnn : Addr) {s : State} (hsp : s.sp.val = 16) :
    exec (.call nnn) s = .next (s.raise .stackOverflow) := by
  rcases s.call_cases (addrWord nnn) with ⟨_, e⟩ | ⟨hroom, _⟩
  · exact congrArg Host.Outcome.next e
  · omega

/-- A return with no entry on the stack (R222). -/
theorem exec_ret_of_empty (m : BitVec 8) {s : State} (hsp : s.sp.val = 0) :
    exec (.ret m) s = .next (s.raise .stackUnderflow) := by
  rcases s.ret_cases with ⟨_, e⟩ | ⟨hentry, _⟩
  · exact congrArg Host.Outcome.next e
  · omega

/-! ## The obligations -/

/-- Settles O21. -/
theorem callOnAFullStackFaults : Obligations.CallOnAFullStackFaults :=
  fun nnn _ hsp => exec_raise (exec_call_of_full nnn hsp)

/-- Settles O23. -/
theorem returnOnAnEmptyStackFaults : Obligations.ReturnOnAnEmptyStackFaults :=
  fun m _ hsp => exec_raise (exec_ret_of_empty m hsp)

end Sys2Proof.Machine
end

section
/-! PROOF. The statements on `load` of 70_reset_and_hazards.md. A request that fits is one store of consecutive bytes
below the top of memory, where no address wraps; any other request answers with the state it was given. -/

namespace Sys2Proof.Machine

/-! ## The two answers to a request -/

/-- The whole request is stored (R255). -/
theorem load_of_length_le {bytes : List Byte} (h : bytes.length ≤ 3584) (s : State) :
    load bytes s = (.ok, s.memWriteAll 0x200 bytes) := if_pos h

/-- The whole request is rejected (R256). -/
theorem load_of_lt_length {bytes : List Byte} (h : 3584 < bytes.length) (s : State) :
    load bytes s = (.loadError, s) := if_neg (Nat.not_le.mpr h)

/-! ## The addresses of a request -/

/-- No address of a request that fits wraps. -/
theorem memIndex_rom {k : Nat} (h : k < 3584) : memIndex (0x200 + k) = 0x200 + k :=
  Nat.mod_eq_of_lt (by simp only [Config.memSize]; omega)

/-- A byte below 0x200, or from the end of the request upward, keeps its value. -/
theorem State.memRead1_storeRom_outside (s : State) {bytes : List Byte} (hlen : bytes.length ≤ 3584) {a : Nat}
    (ha : memIndex a < 0x200 ∨ 0x200 + bytes.length ≤ memIndex a) :
    (s.memWriteAll 0x200 bytes).memRead1 a = s.memRead1 a := by
  refine s.memRead1_memWriteAll_outside _ _ a fun j hj => ?_
  rw [memIndex_rom (by omega)]
  omega

/-! ## The obligations -/

/-- Settles O3. -/
theorem loadWritesTheRomOrNothing : Obligations.LoadWritesTheRomOrNothing := by
  refine fun bytes s => ⟨fun hlen => ?_, fun hlen => load_of_lt_length hlen s⟩
  rw [load_of_length_le hlen]
  exact ⟨rfl, fun k hk =>
    ⟨memIndex_rom (by omega), s.memRead1_memWriteAll_inside 0x200 bytes (by omega) k hk⟩⟩

/-- Settles O4: a request that fits writes its own addresses of memory, a rejected one writes nothing. -/
theorem loadTouchesOnlyTheBytesSupplied : Obligations.LoadTouchesOnlyTheBytesSupplied := by
  refine fun bytes s => and_left_comm.mp ⟨load_of_length_le (Nat.zero_le _) s, ?_⟩
  rcases le_or_gt bytes.length 3584 with hlen | hlen
  · rw [load_of_length_le hlen]
    exact ⟨keepsExcept_memWriteAll s _ _, fun _ ha => s.memRead1_storeRom_outside hlen ha⟩
  · rw [load_of_lt_length hlen]
    exact ⟨KeepsExcept.refl _ s, fun _ _ => rfl⟩

end Sys2Proof.Machine
end
